-- ==== Sys2Proof/Word.lean ====
section
/-! DEFINITION. The word types of RV32IFD and their plainest arithmetic (00_scope.md R6 to R9). -/

namespace Sys2Proof

/-- One byte of memory (20_memory.md R35). -/
abbrev Byte := BitVec 8

/-- A 32-bit word: an x register, an address, an instruction, a binary32 pattern (00_scope.md R6 `XLEN`, `ILEN`). -/
abbrev Word := BitVec 32

/-- A 64-bit doubleword: an f register, a binary64 pattern (00_scope.md R6 `FLEN`). -/
abbrev DWord := BitVec 64

/-- Four bytes, the one at the lowest address first, as a little-endian word (20_memory.md R37, R38). -/
def wordOfBytes (b0 b1 b2 b3 : Byte) : Word := b3 ++ b2 ++ b1 ++ b0

/-- Byte `k` of a word, bits `8k+7` to `8k` (20_memory.md R37). -/
def byteOfWord (v : Word) (k : Nat) : Byte := v.extractLsb' (8 * k) 8

/-- The low half of a doubleword, bits 31 to 0 (10_state.md R15). -/
def lowHalf (v : DWord) : Word := v.extractLsb' 0 32

/-- The high half of a doubleword, bits 63 to 32 (10_state.md R19). -/
def highHalf (v : DWord) : Word := v.extractLsb' 32 32

end Sys2Proof
end

