-- ==== Sys2Proof/Syntax.lean ====
section
/-! DEFINITION. The abstract syntax: one constructor for each of the 72 rows of opcode_table.json
(30_encoding.md R65; 47_base_subset.md R167). -/

namespace Sys2Proof

/-- The 5-bit number of an x register (10_state.md R22, R23; 30_encoding.md R59). -/
abbrev XReg := BitVec 5

/-- The 5-bit number of an f register (10_state.md R14, R22; 30_encoding.md R59). -/
abbrev FReg := BitVec 5

/-- The five rounding modes (10_state.md R27; 40_numerics.md R79). -/
inductive RoundingMode where
  | rne
  | rtz
  | rdn
  | rup
  | rmm
  deriving DecidableEq, Repr

/-- The `rm` field of an instruction that rounds: a static mode, the dynamic mode of `fcsr.frm`, or one of the two
reserved values, which are encodings of the row that trap when executed (30_encoding.md R67; 40_numerics.md R80). -/
inductive RmField where
  | static (m : RoundingMode)
  | dyn
  | reserved101
  | reserved110
  deriving DecidableEq, Repr

/-- The instructions. Which register file a field indexes is 10_state.md R22; immediates are held as the encoding has
them (30_encoding.md R57, R58; 47_base_subset.md R168), `off` with its bit 0, which the encoding fixes to 0. -/
inductive Instr where
  /-- `flw`, 41_load_store.md R106. -/
  | flw (rd : FReg) (rs1 : XReg) (imm : BitVec 12)
  /-- `fsw`, 41_load_store.md R108. -/
  | fsw (rs2 : FReg) (rs1 : XReg) (imm : BitVec 12)
  /-- `fmadd.s`, 43_fused.md R124. -/
  | fmaddS (rd rs1 rs2 rs3 : FReg) (rm : RmField)
  /-- `fmsub.s`, 43_fused.md R125. -/
  | fmsubS (rd rs1 rs2 rs3 : FReg) (rm : RmField)
  /-- `fnmsub.s`, 43_fused.md R126. -/
  | fnmsubS (rd rs1 rs2 rs3 : FReg) (rm : RmField)
  /-- `fnmadd.s`, 43_fused.md R127. -/
  | fnmaddS (rd rs1 rs2 rs3 : FReg) (rm : RmField)
  /-- `fadd.s`, 42_arithmetic.md R110. -/
  | faddS (rd rs1 rs2 : FReg) (rm : RmField)
  /-- `fsub.s`, 42_arithmetic.md R111. -/
  | fsubS (rd rs1 rs2 : FReg) (rm : RmField)
  /-- `fmul.s`, 42_arithmetic.md R112. -/
  | fmulS (rd rs1 rs2 : FReg) (rm : RmField)
  /-- `fdiv.s`, 42_arithmetic.md R113. -/
  | fdivS (rd rs1 rs2 : FReg) (rm : RmField)
  /-- `fsqrt.s`, 42_arithmetic.md R114. -/
  | fsqrtS (rd rs1 : FReg) (rm : RmField)
  /-- `fsgnj.s`, 46_sign_classify.md R152. -/
  | fsgnjS (rd rs1 rs2 : FReg)
  /-- `fsgnjn.s`, 46_sign_classify.md R153. -/
  | fsgnjnS (rd rs1 rs2 : FReg)
  /-- `fsgnjx.s`, 46_sign_classify.md R154. -/
  | fsgnjxS (rd rs1 rs2 : FReg)
  /-- `fmin.s`, 42_arithmetic.md R115. -/
  | fminS (rd rs1 rs2 : FReg)
  /-- `fmax.s`, 42_arithmetic.md R116. -/
  | fmaxS (rd rs1 rs2 : FReg)
  /-- `fcvt.w.s`, 45_convert_move.md R139. -/
  | fcvtWS (rd : XReg) (rs1 : FReg) (rm : RmField)
  /-- `fcvt.wu.s`, 45_convert_move.md R140. -/
  | fcvtWuS (rd : XReg) (rs1 : FReg) (rm : RmField)
  /-- `fmv.x.w`, 45_convert_move.md R149. -/
  | fmvXW (rd : XReg) (rs1 : FReg)
  /-- `feq.s`, 44_compare.md R132. -/
  | feqS (rd : XReg) (rs1 rs2 : FReg)
  /-- `flt.s`, 44_compare.md R133. -/
  | fltS (rd : XReg) (rs1 rs2 : FReg)
  /-- `fle.s`, 44_compare.md R134. -/
  | fleS (rd : XReg) (rs1 rs2 : FReg)
  /-- `fclass.s`, 46_sign_classify.md R158. -/
  | fclassS (rd : XReg) (rs1 : FReg)
  /-- `fcvt.s.w`, 45_convert_move.md R141. -/
  | fcvtSW (rd : FReg) (rs1 : XReg) (rm : RmField)
  /-- `fcvt.s.wu`, 45_convert_move.md R142. -/
  | fcvtSWu (rd : FReg) (rs1 : XReg) (rm : RmField)
  /-- `fmv.w.x`, 45_convert_move.md R150. -/
  | fmvWX (rd : FReg) (rs1 : XReg)
  /-- `fld`, 41_load_store.md R107. -/
  | fld (rd : FReg) (rs1 : XReg) (imm : BitVec 12)
  /-- `fsd`, 41_load_store.md R109. -/
  | fsd (rs2 : FReg) (rs1 : XReg) (imm : BitVec 12)
  /-- `fmadd.d`, 43_fused.md R128. -/
  | fmaddD (rd rs1 rs2 rs3 : FReg) (rm : RmField)
  /-- `fmsub.d`, 43_fused.md R129. -/
  | fmsubD (rd rs1 rs2 rs3 : FReg) (rm : RmField)
  /-- `fnmsub.d`, 43_fused.md R130. -/
  | fnmsubD (rd rs1 rs2 rs3 : FReg) (rm : RmField)
  /-- `fnmadd.d`, 43_fused.md R131. -/
  | fnmaddD (rd rs1 rs2 rs3 : FReg) (rm : RmField)
  /-- `fadd.d`, 42_arithmetic.md R117. -/
  | faddD (rd rs1 rs2 : FReg) (rm : RmField)
  /-- `fsub.d`, 42_arithmetic.md R118. -/
  | fsubD (rd rs1 rs2 : FReg) (rm : RmField)
  /-- `fmul.d`, 42_arithmetic.md R119. -/
  | fmulD (rd rs1 rs2 : FReg) (rm : RmField)
  /-- `fdiv.d`, 42_arithmetic.md R120. -/
  | fdivD (rd rs1 rs2 : FReg) (rm : RmField)
  /-- `fsqrt.d`, 42_arithmetic.md R121. -/
  | fsqrtD (rd rs1 : FReg) (rm : RmField)
  /-- `fsgnj.d`, 46_sign_classify.md R155. -/
  | fsgnjD (rd rs1 rs2 : FReg)
  /-- `fsgnjn.d`, 46_sign_classify.md R156. -/
  | fsgnjnD (rd rs1 rs2 : FReg)
  /-- `fsgnjx.d`, 46_sign_classify.md R157. -/
  | fsgnjxD (rd rs1 rs2 : FReg)
  /-- `fmin.d`, 42_arithmetic.md R122. -/
  | fminD (rd rs1 rs2 : FReg)
  /-- `fmax.d`, 42_arithmetic.md R123. -/
  | fmaxD (rd rs1 rs2 : FReg)
  /-- `fcvt.s.d`, 45_convert_move.md R147. -/
  | fcvtSD (rd rs1 : FReg) (rm : RmField)
  /-- `fcvt.d.s`, 45_convert_move.md R148. -/
  | fcvtDS (rd rs1 : FReg) (rm : RmField)
  /-- `feq.d`, 44_compare.md R135. -/
  | feqD (rd : XReg) (rs1 rs2 : FReg)
  /-- `flt.d`, 44_compare.md R136. -/
  | fltD (rd : XReg) (rs1 rs2 : FReg)
  /-- `fle.d`, 44_compare.md R137. -/
  | fleD (rd : XReg) (rs1 rs2 : FReg)
  /-- `fclass.d`, 46_sign_classify.md R159. -/
  | fclassD (rd : XReg) (rs1 : FReg)
  /-- `fcvt.w.d`, 45_convert_move.md R143. -/
  | fcvtWD (rd : XReg) (rs1 : FReg) (rm : RmField)
  /-- `fcvt.wu.d`, 45_convert_move.md R144. -/
  | fcvtWuD (rd : XReg) (rs1 : FReg) (rm : RmField)
  /-- `fcvt.d.w`, 45_convert_move.md R145. -/
  | fcvtDW (rd : FReg) (rs1 : XReg) (rm : RmField)
  /-- `fcvt.d.wu`, 45_convert_move.md R146. -/
  | fcvtDWu (rd : FReg) (rs1 : XReg) (rm : RmField)
  /-- `lui`, 47_base_subset.md R169. -/
  | lui (rd : XReg) (imm : BitVec 20)
  /-- `addi`, 47_base_subset.md R170. -/
  | addi (rd rs1 : XReg) (imm : BitVec 12)
  /-- `add`, 47_base_subset.md R171. -/
  | add (rd rs1 rs2 : XReg)
  /-- `sub`, 47_base_subset.md R172. -/
  | sub (rd rs1 rs2 : XReg)
  /-- `slli`, 47_base_subset.md R173. -/
  | slli (rd rs1 : XReg) (shamt : BitVec 5)
  /-- `lw`, 47_base_subset.md R174. -/
  | lw (rd rs1 : XReg) (imm : BitVec 12)
  /-- `sw`, 47_base_subset.md R175. -/
  | sw (rs2 rs1 : XReg) (imm : BitVec 12)
  /-- `beq`, 47_base_subset.md R176. -/
  | beq (rs1 rs2 : XReg) (off : BitVec 13)
  /-- `bne`, 47_base_subset.md R177. -/
  | bne (rs1 rs2 : XReg) (off : BitVec 13)
  /-- `blt`, 47_base_subset.md R178. -/
  | blt (rs1 rs2 : XReg) (off : BitVec 13)
  /-- `jal`, 47_base_subset.md R179. -/
  | jal (rd : XReg) (off : BitVec 21)
  /-- `jalr`, 47_base_subset.md R180. -/
  | jalr (rd rs1 : XReg) (imm : BitVec 12)
  /-- `csrrw`, 47_base_subset.md R181. -/
  | csrrw (rd : XReg) (csr : BitVec 12) (rs1 : XReg)
  /-- `csrrs`, 47_base_subset.md R182. -/
  | csrrs (rd : XReg) (csr : BitVec 12) (rs1 : XReg)
  /-- `csrrc`, 47_base_subset.md R183. -/
  | csrrc (rd : XReg) (csr : BitVec 12) (rs1 : XReg)
  /-- `csrrwi`, 47_base_subset.md R184. -/
  | csrrwi (rd : XReg) (csr : BitVec 12) (uimm : BitVec 5)
  /-- `csrrsi`, 47_base_subset.md R185. -/
  | csrrsi (rd : XReg) (csr : BitVec 12) (uimm : BitVec 5)
  /-- `csrrci`, 47_base_subset.md R186. -/
  | csrrci (rd : XReg) (csr : BitVec 12) (uimm : BitVec 5)
  /-- `ecall`, 47_base_subset.md R187. -/
  | ecall
  /-- `ebreak`, 47_base_subset.md R188. -/
  | ebreak
  deriving DecidableEq, Repr

end Sys2Proof
end

