-- ==== Sys2Proof/Decode.lean ====
section
/-! DEFINITION. Decoding by the opcode table (30_encoding.md R65, R66, R68) and the encoder that inverts it. -/

namespace Sys2Proof

/-! ## Fields of an instruction word (30_encoding.md R52 to R58; 47_base_subset.md R168) -/

/-- Bits 6:0. -/
def opcodeField (w : Word) : BitVec 7 := w.extractLsb' 0 7

/-- Bits 11:7. -/
def rdField (w : Word) : BitVec 5 := w.extractLsb' 7 5

/-- Bits 14:12, as an opcode field. -/
def funct3Field (w : Word) : BitVec 3 := w.extractLsb' 12 3

/-- Bits 19:15. -/
def rs1Field (w : Word) : BitVec 5 := w.extractLsb' 15 5

/-- Bits 24:20. -/
def rs2Field (w : Word) : BitVec 5 := w.extractLsb' 20 5

/-- Bits 31:27. -/
def rs3Field (w : Word) : BitVec 5 := w.extractLsb' 27 5

/-- The three bits of a rounding mode (10_state.md R27). -/
def RoundingMode.bits : RoundingMode → BitVec 3
  | .rne => 0b000
  | .rtz => 0b001
  | .rdn => 0b010
  | .rup => 0b011
  | .rmm => 0b100

/-- The rounding mode three bits name; none for the reserved 101, 110, 111 (10_state.md R27). -/
def RoundingMode.ofBits? (b : BitVec 3) : Option RoundingMode :=
  if b = 0b000 then some .rne
  else if b = 0b001 then some .rtz
  else if b = 0b010 then some .rdn
  else if b = 0b011 then some .rup
  else if b = 0b100 then some .rmm
  else none

/-- The three bits of an `rm` field (30_encoding.md R67). -/
def RmField.bits : RmField → BitVec 3
  | .static m => m.bits
  | .dyn => 0b111
  | .reserved101 => 0b101
  | .reserved110 => 0b110

/-- What the three bits of an `rm` field say (30_encoding.md R67). -/
def RmField.ofBits (b : BitVec 3) : RmField :=
  match RoundingMode.ofBits? b with
  | some m => .static m
  | none => if b = 0b111 then .dyn else if b = 0b101 then .reserved101 else .reserved110

/-- Bits 14:12, as a rounding-mode field. -/
def rmField (w : Word) : RmField := .ofBits (funct3Field w)

/-- Format I immediate (R57). -/
def immI (w : Word) : BitVec 12 := w.extractLsb' 20 12

/-- Format S immediate (R58). -/
def immS (w : Word) : BitVec 12 := w.extractLsb' 25 7 ++ w.extractLsb' 7 5

/-- Format U immediate (R168). -/
def immU (w : Word) : BitVec 20 := w.extractLsb' 12 20

/-- Format B offset (R168). -/
def immB (w : Word) : BitVec 13 :=
  w.extractLsb' 31 1 ++ w.extractLsb' 7 1 ++ w.extractLsb' 25 6 ++ w.extractLsb' 8 4 ++ (0 : BitVec 1)

/-- Format J offset (R168). -/
def immJ (w : Word) : BitVec 21 :=
  w.extractLsb' 31 1 ++ w.extractLsb' 12 8 ++ w.extractLsb' 20 1 ++ w.extractLsb' 21 10 ++ (0 : BitVec 1)

/-! ## The opcode table (30_encoding.md R65; opcode_table.json) -/

/-- A row: `w` is the row's instruction when `w &&& mask = pattern`. -/
structure Row where
  mnemonic : String
  pattern : Word
  mask : Word
  build : Word → Instr

/-- The word selects the row (R65). -/
def Row.hits (r : Row) (w : Word) : Bool := w &&& r.mask == r.pattern

/-- The 26 rows of Figure 5.2, RV32F. -/
def opcodeRowsF : List Row := [
  ⟨"flw", 0x00002007, 0x0000707f, fun w => .flw (rdField w) (rs1Field w) (immI w)⟩,
  ⟨"fsw", 0x00002027, 0x0000707f, fun w => .fsw (rs2Field w) (rs1Field w) (immS w)⟩,
  ⟨"fmadd.s", 0x00000043, 0x0600007f, fun w => .fmaddS (rdField w) (rs1Field w) (rs2Field w) (rs3Field w) (rmField w)⟩,
  ⟨"fmsub.s", 0x00000047, 0x0600007f, fun w => .fmsubS (rdField w) (rs1Field w) (rs2Field w) (rs3Field w) (rmField w)⟩,
  ⟨"fnmsub.s", 0x0000004b, 0x0600007f, fun w => .fnmsubS (rdField w) (rs1Field w) (rs2Field w) (rs3Field w) (rmField w)⟩,
  ⟨"fnmadd.s", 0x0000004f, 0x0600007f, fun w => .fnmaddS (rdField w) (rs1Field w) (rs2Field w) (rs3Field w) (rmField w)⟩,
  ⟨"fadd.s", 0x00000053, 0xfe00007f, fun w => .faddS (rdField w) (rs1Field w) (rs2Field w) (rmField w)⟩,
  ⟨"fsub.s", 0x08000053, 0xfe00007f, fun w => .fsubS (rdField w) (rs1Field w) (rs2Field w) (rmField w)⟩,
  ⟨"fmul.s", 0x10000053, 0xfe00007f, fun w => .fmulS (rdField w) (rs1Field w) (rs2Field w) (rmField w)⟩,
  ⟨"fdiv.s", 0x18000053, 0xfe00007f, fun w => .fdivS (rdField w) (rs1Field w) (rs2Field w) (rmField w)⟩,
  ⟨"fsqrt.s", 0x58000053, 0xfff0007f, fun w => .fsqrtS (rdField w) (rs1Field w) (rmField w)⟩,
  ⟨"fsgnj.s", 0x20000053, 0xfe00707f, fun w => .fsgnjS (rdField w) (rs1Field w) (rs2Field w)⟩,
  ⟨"fsgnjn.s", 0x20001053, 0xfe00707f, fun w => .fsgnjnS (rdField w) (rs1Field w) (rs2Field w)⟩,
  ⟨"fsgnjx.s", 0x20002053, 0xfe00707f, fun w => .fsgnjxS (rdField w) (rs1Field w) (rs2Field w)⟩,
  ⟨"fmin.s", 0x28000053, 0xfe00707f, fun w => .fminS (rdField w) (rs1Field w) (rs2Field w)⟩,
  ⟨"fmax.s", 0x28001053, 0xfe00707f, fun w => .fmaxS (rdField w) (rs1Field w) (rs2Field w)⟩,
  ⟨"fcvt.w.s", 0xc0000053, 0xfff0007f, fun w => .fcvtWS (rdField w) (rs1Field w) (rmField w)⟩,
  ⟨"fcvt.wu.s", 0xc0100053, 0xfff0007f, fun w => .fcvtWuS (rdField w) (rs1Field w) (rmField w)⟩,
  ⟨"fmv.x.w", 0xe0000053, 0xfff0707f, fun w => .fmvXW (rdField w) (rs1Field w)⟩,
  ⟨"feq.s", 0xa0002053, 0xfe00707f, fun w => .feqS (rdField w) (rs1Field w) (rs2Field w)⟩,
  ⟨"flt.s", 0xa0001053, 0xfe00707f, fun w => .fltS (rdField w) (rs1Field w) (rs2Field w)⟩,
  ⟨"fle.s", 0xa0000053, 0xfe00707f, fun w => .fleS (rdField w) (rs1Field w) (rs2Field w)⟩,
  ⟨"fclass.s", 0xe0001053, 0xfff0707f, fun w => .fclassS (rdField w) (rs1Field w)⟩,
  ⟨"fcvt.s.w", 0xd0000053, 0xfff0007f, fun w => .fcvtSW (rdField w) (rs1Field w) (rmField w)⟩,
  ⟨"fcvt.s.wu", 0xd0100053, 0xfff0007f, fun w => .fcvtSWu (rdField w) (rs1Field w) (rmField w)⟩,
  ⟨"fmv.w.x", 0xf0000053, 0xfff0707f, fun w => .fmvWX (rdField w) (rs1Field w)⟩]

/-- The 26 rows of Figure 5.3, RV32D. -/
def opcodeRowsD : List Row := [
  ⟨"fld", 0x00003007, 0x0000707f, fun w => .fld (rdField w) (rs1Field w) (immI w)⟩,
  ⟨"fsd", 0x00003027, 0x0000707f, fun w => .fsd (rs2Field w) (rs1Field w) (immS w)⟩,
  ⟨"fmadd.d", 0x02000043, 0x0600007f, fun w => .fmaddD (rdField w) (rs1Field w) (rs2Field w) (rs3Field w) (rmField w)⟩,
  ⟨"fmsub.d", 0x02000047, 0x0600007f, fun w => .fmsubD (rdField w) (rs1Field w) (rs2Field w) (rs3Field w) (rmField w)⟩,
  ⟨"fnmsub.d", 0x0200004b, 0x0600007f, fun w => .fnmsubD (rdField w) (rs1Field w) (rs2Field w) (rs3Field w) (rmField w)⟩,
  ⟨"fnmadd.d", 0x0200004f, 0x0600007f, fun w => .fnmaddD (rdField w) (rs1Field w) (rs2Field w) (rs3Field w) (rmField w)⟩,
  ⟨"fadd.d", 0x02000053, 0xfe00007f, fun w => .faddD (rdField w) (rs1Field w) (rs2Field w) (rmField w)⟩,
  ⟨"fsub.d", 0x0a000053, 0xfe00007f, fun w => .fsubD (rdField w) (rs1Field w) (rs2Field w) (rmField w)⟩,
  ⟨"fmul.d", 0x12000053, 0xfe00007f, fun w => .fmulD (rdField w) (rs1Field w) (rs2Field w) (rmField w)⟩,
  ⟨"fdiv.d", 0x1a000053, 0xfe00007f, fun w => .fdivD (rdField w) (rs1Field w) (rs2Field w) (rmField w)⟩,
  ⟨"fsqrt.d", 0x5a000053, 0xfff0007f, fun w => .fsqrtD (rdField w) (rs1Field w) (rmField w)⟩,
  ⟨"fsgnj.d", 0x22000053, 0xfe00707f, fun w => .fsgnjD (rdField w) (rs1Field w) (rs2Field w)⟩,
  ⟨"fsgnjn.d", 0x22001053, 0xfe00707f, fun w => .fsgnjnD (rdField w) (rs1Field w) (rs2Field w)⟩,
  ⟨"fsgnjx.d", 0x22002053, 0xfe00707f, fun w => .fsgnjxD (rdField w) (rs1Field w) (rs2Field w)⟩,
  ⟨"fmin.d", 0x2a000053, 0xfe00707f, fun w => .fminD (rdField w) (rs1Field w) (rs2Field w)⟩,
  ⟨"fmax.d", 0x2a001053, 0xfe00707f, fun w => .fmaxD (rdField w) (rs1Field w) (rs2Field w)⟩,
  ⟨"fcvt.s.d", 0x40100053, 0xfff0007f, fun w => .fcvtSD (rdField w) (rs1Field w) (rmField w)⟩,
  ⟨"fcvt.d.s", 0x42000053, 0xfff0007f, fun w => .fcvtDS (rdField w) (rs1Field w) (rmField w)⟩,
  ⟨"feq.d", 0xa2002053, 0xfe00707f, fun w => .feqD (rdField w) (rs1Field w) (rs2Field w)⟩,
  ⟨"flt.d", 0xa2001053, 0xfe00707f, fun w => .fltD (rdField w) (rs1Field w) (rs2Field w)⟩,
  ⟨"fle.d", 0xa2000053, 0xfe00707f, fun w => .fleD (rdField w) (rs1Field w) (rs2Field w)⟩,
  ⟨"fclass.d", 0xe2001053, 0xfff0707f, fun w => .fclassD (rdField w) (rs1Field w)⟩,
  ⟨"fcvt.w.d", 0xc2000053, 0xfff0007f, fun w => .fcvtWD (rdField w) (rs1Field w) (rmField w)⟩,
  ⟨"fcvt.wu.d", 0xc2100053, 0xfff0007f, fun w => .fcvtWuD (rdField w) (rs1Field w) (rmField w)⟩,
  ⟨"fcvt.d.w", 0xd2000053, 0xfff0007f, fun w => .fcvtDW (rdField w) (rs1Field w) (rmField w)⟩,
  ⟨"fcvt.d.wu", 0xd2100053, 0xfff0007f, fun w => .fcvtDWu (rdField w) (rs1Field w) (rmField w)⟩]

/-- The 20 borrowed rows (47_base_subset.md R167). -/
def opcodeRowsBase : List Row := [
  ⟨"lui", 0x00000037, 0x0000007f, fun w => .lui (rdField w) (immU w)⟩,
  ⟨"addi", 0x00000013, 0x0000707f, fun w => .addi (rdField w) (rs1Field w) (immI w)⟩,
  ⟨"add", 0x00000033, 0xfe00707f, fun w => .add (rdField w) (rs1Field w) (rs2Field w)⟩,
  ⟨"sub", 0x40000033, 0xfe00707f, fun w => .sub (rdField w) (rs1Field w) (rs2Field w)⟩,
  ⟨"slli", 0x00001013, 0xfe00707f, fun w => .slli (rdField w) (rs1Field w) (rs2Field w)⟩,
  ⟨"lw", 0x00002003, 0x0000707f, fun w => .lw (rdField w) (rs1Field w) (immI w)⟩,
  ⟨"sw", 0x00002023, 0x0000707f, fun w => .sw (rs2Field w) (rs1Field w) (immS w)⟩,
  ⟨"beq", 0x00000063, 0x0000707f, fun w => .beq (rs1Field w) (rs2Field w) (immB w)⟩,
  ⟨"bne", 0x00001063, 0x0000707f, fun w => .bne (rs1Field w) (rs2Field w) (immB w)⟩,
  ⟨"blt", 0x00004063, 0x0000707f, fun w => .blt (rs1Field w) (rs2Field w) (immB w)⟩,
  ⟨"jal", 0x0000006f, 0x0000007f, fun w => .jal (rdField w) (immJ w)⟩,
  ⟨"jalr", 0x00000067, 0x0000707f, fun w => .jalr (rdField w) (rs1Field w) (immI w)⟩,
  ⟨"csrrw", 0x00001073, 0x0000707f, fun w => .csrrw (rdField w) (immI w) (rs1Field w)⟩,
  ⟨"csrrs", 0x00002073, 0x0000707f, fun w => .csrrs (rdField w) (immI w) (rs1Field w)⟩,
  ⟨"csrrc", 0x00003073, 0x0000707f, fun w => .csrrc (rdField w) (immI w) (rs1Field w)⟩,
  ⟨"csrrwi", 0x00005073, 0x0000707f, fun w => .csrrwi (rdField w) (immI w) (rs1Field w)⟩,
  ⟨"csrrsi", 0x00006073, 0x0000707f, fun w => .csrrsi (rdField w) (immI w) (rs1Field w)⟩,
  ⟨"csrrci", 0x00007073, 0x0000707f, fun w => .csrrci (rdField w) (immI w) (rs1Field w)⟩,
  ⟨"ecall", 0x00000073, 0xffffffff, fun _ => .ecall⟩,
  ⟨"ebreak", 0x00100073, 0xffffffff, fun _ => .ebreak⟩]

/-- The whole table. -/
def opcodeRows : List Row := opcodeRowsF ++ opcodeRowsD ++ opcodeRowsBase

/-- The seven floating-point major opcodes (30_encoding.md R60). -/
def fpOpcodes : List (BitVec 7) :=
  [0b0000111, 0b0100111, 0b1000011, 0b1000111, 0b1001011, 0b1001111, 0b1010011]

/-- What a decoder answers. -/
inductive Decoded where
  /-- The word is this instruction (R65). -/
  | instr (i : Instr)
  /-- The word is under a floating-point opcode and matches no row: the machine raises `IllegalInstruction` (R66). -/
  | illegal (w : Word)
  /-- The word is under another opcode and matches no row: the spec gives it no meaning (R68). -/
  | notDescribed (w : Word)
  /-- There are fewer than four bytes: no instruction (R51). -/
  | truncated
  deriving DecidableEq, Repr

/-- Decode a word by the table (R65, R66, R68). -/
def decodeWord (w : Word) : Decoded :=
  match opcodeRows.find? (fun r => r.hits w) with
  | some r => .instr (r.build w)
  | none => if opcodeField w ∈ fpOpcodes then .illegal w else .notDescribed w

/-- Decode the instruction at the head of a list of bytes, little-endian (20_memory.md R38). -/
def decodeBytes : List Byte → Decoded
  | b0 :: b1 :: b2 :: b3 :: _ => decodeWord (wordOfBytes b0 b1 b2 b3)
  | _ => .truncated

/-! ## The encoder -/

/-- Format R (30_encoding.md R55). -/
def encodeR (funct7 : BitVec 7) (rs2 rs1 : BitVec 5) (funct3 : BitVec 3) (rd : BitVec 5) (op : BitVec 7) : Word :=
  funct7 ++ rs2 ++ rs1 ++ funct3 ++ rd ++ op

/-- Format R4 (30_encoding.md R56). -/
def encodeR4 (rs3 : BitVec 5) (fmt : BitVec 2) (rs2 rs1 : BitVec 5) (rm : BitVec 3) (rd : BitVec 5)
    (op : BitVec 7) : Word :=
  rs3 ++ fmt ++ rs2 ++ rs1 ++ rm ++ rd ++ op

/-- Format I (30_encoding.md R53). -/
def encodeI (imm : BitVec 12) (rs1 : BitVec 5) (funct3 : BitVec 3) (rd : BitVec 5) (op : BitVec 7) : Word :=
  imm ++ rs1 ++ funct3 ++ rd ++ op

/-- Format S (30_encoding.md R54). -/
def encodeS (imm : BitVec 12) (rs2 rs1 : BitVec 5) (funct3 : BitVec 3) (op : BitVec 7) : Word :=
  imm.extractLsb' 5 7 ++ rs2 ++ rs1 ++ funct3 ++ imm.extractLsb' 0 5 ++ op

/-- Format U (47_base_subset.md R168). -/
def encodeU (imm : BitVec 20) (rd : BitVec 5) (op : BitVec 7) : Word := imm ++ rd ++ op

/-- Format B (47_base_subset.md R168). -/
def encodeB (off : BitVec 13) (rs2 rs1 : BitVec 5) (funct3 : BitVec 3) (op : BitVec 7) : Word :=
  off.extractLsb' 12 1 ++ off.extractLsb' 5 6 ++ rs2 ++ rs1 ++ funct3 ++ off.extractLsb' 1 4 ++
    off.extractLsb' 11 1 ++ op

/-- Format J (47_base_subset.md R168). -/
def encodeJ (off : BitVec 21) (rd : BitVec 5) (op : BitVec 7) : Word :=
  off.extractLsb' 20 1 ++ off.extractLsb' 1 10 ++ off.extractLsb' 11 1 ++ off.extractLsb' 12 8 ++ rd ++ op

/-- The word of an instruction: the encoding line of its rule. -/
def encode : Instr → Word
  | .flw rd rs1 imm => encodeI imm rs1 0b010 rd 0b0000111
  | .fsw rs2 rs1 imm => encodeS imm rs2 rs1 0b010 0b0100111
  | .fmaddS rd rs1 rs2 rs3 rm => encodeR4 rs3 0b00 rs2 rs1 rm.bits rd 0b1000011
  | .fmsubS rd rs1 rs2 rs3 rm => encodeR4 rs3 0b00 rs2 rs1 rm.bits rd 0b1000111
  | .fnmsubS rd rs1 rs2 rs3 rm => encodeR4 rs3 0b00 rs2 rs1 rm.bits rd 0b1001011
  | .fnmaddS rd rs1 rs2 rs3 rm => encodeR4 rs3 0b00 rs2 rs1 rm.bits rd 0b1001111
  | .faddS rd rs1 rs2 rm => encodeR 0b0000000 rs2 rs1 rm.bits rd 0b1010011
  | .fsubS rd rs1 rs2 rm => encodeR 0b0000100 rs2 rs1 rm.bits rd 0b1010011
  | .fmulS rd rs1 rs2 rm => encodeR 0b0001000 rs2 rs1 rm.bits rd 0b1010011
  | .fdivS rd rs1 rs2 rm => encodeR 0b0001100 rs2 rs1 rm.bits rd 0b1010011
  | .fsqrtS rd rs1 rm => encodeR 0b0101100 0b00000 rs1 rm.bits rd 0b1010011
  | .fsgnjS rd rs1 rs2 => encodeR 0b0010000 rs2 rs1 0b000 rd 0b1010011
  | .fsgnjnS rd rs1 rs2 => encodeR 0b0010000 rs2 rs1 0b001 rd 0b1010011
  | .fsgnjxS rd rs1 rs2 => encodeR 0b0010000 rs2 rs1 0b010 rd 0b1010011
  | .fminS rd rs1 rs2 => encodeR 0b0010100 rs2 rs1 0b000 rd 0b1010011
  | .fmaxS rd rs1 rs2 => encodeR 0b0010100 rs2 rs1 0b001 rd 0b1010011
  | .fcvtWS rd rs1 rm => encodeR 0b1100000 0b00000 rs1 rm.bits rd 0b1010011
  | .fcvtWuS rd rs1 rm => encodeR 0b1100000 0b00001 rs1 rm.bits rd 0b1010011
  | .fmvXW rd rs1 => encodeR 0b1110000 0b00000 rs1 0b000 rd 0b1010011
  | .feqS rd rs1 rs2 => encodeR 0b1010000 rs2 rs1 0b010 rd 0b1010011
  | .fltS rd rs1 rs2 => encodeR 0b1010000 rs2 rs1 0b001 rd 0b1010011
  | .fleS rd rs1 rs2 => encodeR 0b1010000 rs2 rs1 0b000 rd 0b1010011
  | .fclassS rd rs1 => encodeR 0b1110000 0b00000 rs1 0b001 rd 0b1010011
  | .fcvtSW rd rs1 rm => encodeR 0b1101000 0b00000 rs1 rm.bits rd 0b1010011
  | .fcvtSWu rd rs1 rm => encodeR 0b1101000 0b00001 rs1 rm.bits rd 0b1010011
  | .fmvWX rd rs1 => encodeR 0b1111000 0b00000 rs1 0b000 rd 0b1010011
  | .fld rd rs1 imm => encodeI imm rs1 0b011 rd 0b0000111
  | .fsd rs2 rs1 imm => encodeS imm rs2 rs1 0b011 0b0100111
  | .fmaddD rd rs1 rs2 rs3 rm => encodeR4 rs3 0b01 rs2 rs1 rm.bits rd 0b1000011
  | .fmsubD rd rs1 rs2 rs3 rm => encodeR4 rs3 0b01 rs2 rs1 rm.bits rd 0b1000111
  | .fnmsubD rd rs1 rs2 rs3 rm => encodeR4 rs3 0b01 rs2 rs1 rm.bits rd 0b1001011
  | .fnmaddD rd rs1 rs2 rs3 rm => encodeR4 rs3 0b01 rs2 rs1 rm.bits rd 0b1001111
  | .faddD rd rs1 rs2 rm => encodeR 0b0000001 rs2 rs1 rm.bits rd 0b1010011
  | .fsubD rd rs1 rs2 rm => encodeR 0b0000101 rs2 rs1 rm.bits rd 0b1010011
  | .fmulD rd rs1 rs2 rm => encodeR 0b0001001 rs2 rs1 rm.bits rd 0b1010011
  | .fdivD rd rs1 rs2 rm => encodeR 0b0001101 rs2 rs1 rm.bits rd 0b1010011
  | .fsqrtD rd rs1 rm => encodeR 0b0101101 0b00000 rs1 rm.bits rd 0b1010011
  | .fsgnjD rd rs1 rs2 => encodeR 0b0010001 rs2 rs1 0b000 rd 0b1010011
  | .fsgnjnD rd rs1 rs2 => encodeR 0b0010001 rs2 rs1 0b001 rd 0b1010011
  | .fsgnjxD rd rs1 rs2 => encodeR 0b0010001 rs2 rs1 0b010 rd 0b1010011
  | .fminD rd rs1 rs2 => encodeR 0b0010101 rs2 rs1 0b000 rd 0b1010011
  | .fmaxD rd rs1 rs2 => encodeR 0b0010101 rs2 rs1 0b001 rd 0b1010011
  | .fcvtSD rd rs1 rm => encodeR 0b0100000 0b00001 rs1 rm.bits rd 0b1010011
  | .fcvtDS rd rs1 rm => encodeR 0b0100001 0b00000 rs1 rm.bits rd 0b1010011
  | .feqD rd rs1 rs2 => encodeR 0b1010001 rs2 rs1 0b010 rd 0b1010011
  | .fltD rd rs1 rs2 => encodeR 0b1010001 rs2 rs1 0b001 rd 0b1010011
  | .fleD rd rs1 rs2 => encodeR 0b1010001 rs2 rs1 0b000 rd 0b1010011
  | .fclassD rd rs1 => encodeR 0b1110001 0b00000 rs1 0b001 rd 0b1010011
  | .fcvtWD rd rs1 rm => encodeR 0b1100001 0b00000 rs1 rm.bits rd 0b1010011
  | .fcvtWuD rd rs1 rm => encodeR 0b1100001 0b00001 rs1 rm.bits rd 0b1010011
  | .fcvtDW rd rs1 rm => encodeR 0b1101001 0b00000 rs1 rm.bits rd 0b1010011
  | .fcvtDWu rd rs1 rm => encodeR 0b1101001 0b00001 rs1 rm.bits rd 0b1010011
  | .lui rd imm => encodeU imm rd 0b0110111
  | .addi rd rs1 imm => encodeI imm rs1 0b000 rd 0b0010011
  | .add rd rs1 rs2 => encodeR 0b0000000 rs2 rs1 0b000 rd 0b0110011
  | .sub rd rs1 rs2 => encodeR 0b0100000 rs2 rs1 0b000 rd 0b0110011
  | .slli rd rs1 shamt => encodeR 0b0000000 shamt rs1 0b001 rd 0b0010011
  | .lw rd rs1 imm => encodeI imm rs1 0b010 rd 0b0000011
  | .sw rs2 rs1 imm => encodeS imm rs2 rs1 0b010 0b0100011
  | .beq rs1 rs2 off => encodeB off rs2 rs1 0b000 0b1100011
  | .bne rs1 rs2 off => encodeB off rs2 rs1 0b001 0b1100011
  | .blt rs1 rs2 off => encodeB off rs2 rs1 0b100 0b1100011
  | .jal rd off => encodeJ off rd 0b1101111
  | .jalr rd rs1 imm => encodeI imm rs1 0b000 rd 0b1100111
  | .csrrw rd csr rs1 => encodeI csr rs1 0b001 rd 0b1110011
  | .csrrs rd csr rs1 => encodeI csr rs1 0b010 rd 0b1110011
  | .csrrc rd csr rs1 => encodeI csr rs1 0b011 rd 0b1110011
  | .csrrwi rd csr uimm => encodeI csr uimm 0b101 rd 0b1110011
  | .csrrsi rd csr uimm => encodeI csr uimm 0b110 rd 0b1110011
  | .csrrci rd csr uimm => encodeI csr uimm 0b111 rd 0b1110011
  | .ecall => encodeI 0b000000000000 0b00000 0b000 0b00000 0b1110011
  | .ebreak => encodeI 0b000000000001 0b00000 0b000 0b00000 0b1110011

/-- The bytes of a word as memory holds them, lowest address first (20_memory.md R37, R38). -/
def bytesOfWord (w : Word) : List Byte := [byteOfWord w 0, byteOfWord w 1, byteOfWord w 2, byteOfWord w 3]

/-- The instruction word with the low `nbits` bits of `w` and zeros above. -/
def tableWord (nbits w : Nat) : Word := BitVec.ofNat 32 (w % 2 ^ nbits)

/-- The instruction the decoder reads from an opcode-table word of `nbits` bits, laid out in memory order. -/
def decodeTableWord (nbits w : Nat) : Option Instr :=
  match decodeBytes (bytesOfWord (tableWord nbits w)) with
  | .instr i => some i
  | _ => none

end Sys2Proof
end

