-- ==== Sys2Proof/Config.lean ====
section
/-! DEFINITION. The parameters the spec leaves a named alternative for (00_scope.md R6; 92_eei_decisions.md
"Points left OPEN as parameters"), the free values their draw settings take, and the free contents of the text at
launch. -/

namespace Sys2Proof

/-- `MISALIGNED`: what a misaligned load or store does (20_memory.md R41; D4). -/
inductive Misaligned where
  | trap
  | emulate
  deriving DecidableEq, Repr

/-- `NAN_RESULT`: the NaN an arithmetic instruction produces (40_numerics.md R77; D10). -/
inductive NanResult where
  | canonical
  | draw
  deriving DecidableEq, Repr

/-- `BOX_WRITE`: the upper half of an f register after a single-precision write (10_state.md R20; D11). -/
inductive BoxWrite where
  | ones
  | draw
  deriving DecidableEq, Repr

/-- `BOX_CHECK`: whether a single-precision read checks the upper half (10_state.md R19; D11). -/
inductive BoxCheck where
  | ignore
  | check
  deriving DecidableEq, Repr

/-- `MINMAX`: `fmin` and `fmax` on signaling NaNs and on zeros of opposite sign (40_numerics.md R94; D12). -/
inductive MinMax where
  | number
  | minnum2008
  deriving DecidableEq, Repr

/-- `TININESS`: underflow detected after or before rounding (40_numerics.md R84; D16). -/
inductive Tininess where
  | after
  | before
  deriving DecidableEq, Repr

/-- `FNM_PAIRING`: which of `fnmadd` and `fnmsub` subtracts the addend (43_fused.md introduction; D15). -/
inductive FnmPairing where
  | isa
  | literal
  deriving DecidableEq, Repr

/-- The seven parameters of 00_scope.md R6 that have a default and a named alternative.
They are fixed for a run; a statement about every state holds under every setting. -/
structure Params where
  misaligned : Misaligned
  nanResult : NanResult
  boxWrite : BoxWrite
  boxCheck : BoxCheck
  minMax : MinMax
  tininess : Tininess
  fnmPairing : FnmPairing
  deriving DecidableEq, Repr

/-- The value 00_scope.md R6 decides for each parameter. -/
def Params.default : Params where
  misaligned := .trap
  nanResult := .canonical
  boxWrite := .ones
  boxCheck := .ignore
  minMax := .number
  tininess := .after
  fnmPairing := .isa

/-- Free value (log 18): the upper half written under `BOX_WRITE = draw`, "any 32-bit value, possibly different at
each write" (10_state.md R20). -/
opaque Config.freeUpper : Nat → BitVec 32

/-- Free value (log 18): sign and 22 payload bits of a binary32 quiet NaN produced under `NAN_RESULT = draw`
(40_numerics.md R77). -/
opaque Config.freeNanBits32 : Nat → BitVec 23

/-- Free value (log 18): sign and 51 payload bits of a binary64 quiet NaN produced under `NAN_RESULT = draw`
(40_numerics.md R77). -/
opaque Config.freeNanBits64 : Nat → BitVec 52

/-- Free value (log 18): whether `MINMAX = minnum2008` returns the first of two zeros of opposite sign
(40_numerics.md R94). -/
opaque Config.freeFirstZero : Nat → Bool

/-- Free value (log 4): byte `k` of the instruction word at `State.reset`'s entry. The spec says that a launch's program
text holds it and not what it is (10_state.md R34; 70_reset_and_hazards.md R213 (b)). -/
opaque Config.entryByte : Nat → Byte

end Sys2Proof
end

