-- ==== Sys2Proof/Machine/State.lean ====
section
/-! DEFINITION. The machine's state, its stops and its state after reset (10_state.md R13, R34; 60_exceptions.md R204;
70_reset_and_hazards.md R213). -/

namespace Sys2Proof.Machine

/-- The synchronous exceptions (60_exceptions.md R201). -/
inductive Cause where
  | instructionAddressMisaligned
  | instructionAccessFault
  | illegalInstruction
  | breakpoint
  | loadAddressMisaligned
  | loadAccessFault
  | storeAddressMisaligned
  | storeAccessFault
  | environmentCall
  deriving DecidableEq, Repr

/-- The record a trap leaves: `trap = (cause = E, tval = info, epc = p)` (60_exceptions.md R204).
`EnvironmentCall` records no value (R199, R201). -/
structure TrapRecord where
  cause : Cause
  tval : Option Word
  epc : Word
  deriving DecidableEq, Repr

/-- Bytes of data memory as (address, byte) pairs: addresses strictly rising, no entry equal to what an unlisted byte
reads as (the form is `Memory.wf`). -/
abbrev Memory := List Host.Cell

/-- The byte addresses `base` to `base + size - 1`. -/
structure Region where
  base : Nat
  size : Nat
  deriving DecidableEq, Repr

/-- What a launch fixes for the whole run (70_reset_and_hazards.md R213; 10_state.md R13, last paragraph; log 3):
`MEM.text` with its bytes, the extent of `MEM.data` (its bytes are the state's `mem`), `halt_pc`, and the parameters.
An address is in `MEM.data` when a region covers it and it is not in the text, so the two sets are disjoint (R43). -/
structure Launch where
  text : List Host.Cell
  data : List Region
  haltPc : Word
  params : Params
  deriving DecidableEq, Repr

/-- The state of the one hart (10_state.md R13), the trap record (60_exceptions.md R204), the launch's constants, and
`draws`, the model's own index of the next free value (log 18). -/
structure State where
  x : Vector Word 32
  f : Vector DWord 32
  fcsr : Word
  pc : Word
  mem : Memory
  trap : Option TrapRecord
  launch : Launch
  draws : Nat
  deriving DecidableEq, Repr

/-- Stops of the step function. No instruction meaning raises one. -/
inductive Fault where
  /-- Raised by `step` in a state that holds a trap record: the run has ended (60_exceptions.md R204 (c)). Safe: nothing
  can be proved past a trap (log 1). -/
  | trapped
  /-- Raised by `step` when `pc = halt_pc` before a fetch: the run has ended (70_reset_and_hazards.md R216 (a)). Safe:
  nothing can be proved past a halt (log 2). -/
  | halted
  deriving DecidableEq, Repr

/-- What the spec gives no meaning. -/
inductive Refusal where
  /-- Raised by `exec` for an instruction without a meaning. Safe: nothing is claimed of it. -/
  | notModelled (mnemonic : String)
  /-- Raised by `step` for a word under no floating-point opcode that matches no row (30_encoding.md R68). Safe. -/
  | wordNotDescribed (w : Word)
  /-- Raised by the CSR instructions for a CSR number other than 0x001, 0x002, 0x003 (47_base_subset.md R189). Safe. -/
  | csrNotDescribed (csr : BitVec 12)
  deriving DecidableEq, Repr

/-- The outcome of an instruction or a step. -/
abbrev Result := Host.Outcome State Fault Refusal

/-- The launch `State.reset` stands on: a text of the one word at `entry_pc` (R213 (b)) whose contents are free values,
data everywhere else, `halt_pc` 0, the default parameters (DESIGN CHOICE, unsafe: log 4, 8, 9, 11 to 17). -/
def Launch.reset : Launch where
  text := [(0x1000, Config.entryByte 0), (0x1001, Config.entryByte 1), (0x1002, Config.entryByte 2),
    (0x1003, Config.entryByte 3)]
  data := [⟨0, 2 ^ 32⟩]
  haltPc := 0
  params := .default

/-- The machine at launch (10_state.md R34). The spec fixes `x[0] = 0`, `fcsr[31:8] = 0`, no trap, and a `pc` that is a
multiple of 4 inside the program text; every other value is a DESIGN CHOICE, unsafe (log 4 to 18). -/
def State.reset : State where
  x := Vector.replicate 32 0
  f := Vector.replicate 32 0
  fcsr := 0
  pc := 0x1000
  mem := []
  trap := none
  launch := .reset
  draws := 0

end Sys2Proof.Machine
end

