-- ==== Sys2Proof/Machine/Ops.lean ====
section
/-! DEFINITION. The named operations over registers, memory, program text and the trap record. -/

namespace Sys2Proof.Machine

/-! ## Registers and program counter -/

/-- `x[r]`; `x[0]` reads as 0 (10_state.md R23). -/
def State.readX (s : State) (r : XReg) : Word := if r = 0 then 0 else s.x[r.toNat]'r.isLt

/-- `x[r] <- v`; a write to `x[0]` is discarded (10_state.md R23; 00_scope.md R8). -/
def State.writeX (s : State) (r : XReg) (v : Word) : State :=
  if r = 0 then s else { s with x := s.x.set r.toNat v r.isLt }

/-- `f[r]`, all 64 bits; no f register is hardwired (10_state.md R16, R21). -/
def State.readF (s : State) (r : FReg) : DWord := s.f[r.toNat]'r.isLt

/-- `f[r] <- v`, all 64 bits (10_state.md R16, R21). -/
def State.writeF (s : State) (r : FReg) (v : DWord) : State := { s with f := s.f.set r.toNat v r.isLt }

/-- `pc <- t` (00_scope.md R8). -/
def State.setPc (s : State) (t : Word) : State := { s with pc := t }

/-- `pc <- pc + 4`, modulo 2^32 (00_scope.md R11; 10_state.md R24). -/
def State.advance (s : State) : State := s.setPc (s.pc + 4)

/-- Replace `fcsr`. -/
def State.setFcsr (s : State) (v : Word) : State := { s with fcsr := v }

/-- Replace data memory. -/
def State.setMem (s : State) (m : Memory) : State := { s with mem := m }

/-! ## Data memory -/

/-- What a data byte that nothing has written reads as (10_state.md R34 leaves it unspecified; DESIGN CHOICE, unsafe:
log 10). -/
def unlistedByte : Byte := 0

/-- The byte at address `a`. -/
def Memory.read : Memory → Nat → Byte
  | [], _ => unlistedByte
  | (k, b) :: rest, a => if k = a then b else Memory.read rest a

/-- Drop every entry for `a`. -/
def Memory.erase : Memory → Nat → Memory
  | [], _ => []
  | (k, b) :: rest, a => if k = a then Memory.erase rest a else (k, b) :: Memory.erase rest a

/-- Put an entry before the first greater address. -/
def Memory.insert : Memory → Nat → Byte → Memory
  | [], a, v => [(a, v)]
  | (k, b) :: rest, a, v => if a < k then (a, v) :: (k, b) :: rest else (k, b) :: Memory.insert rest a v

/-- Store one byte, keeping the canonical form: the value an unlisted byte reads as is not listed. -/
def Memory.write (m : Memory) (a : Nat) (v : Byte) : Memory :=
  if v = unlistedByte then Memory.erase m a else Memory.insert (Memory.erase m a) a v

/-- Every address listed is at least `lo`, addresses rise strictly, stay below 2^32, and no entry is the unlisted
byte. -/
def Memory.wfFrom : Nat → Memory → Bool
  | _, [] => true
  | lo, (k, b) :: rest => decide (lo ≤ k) && decide (k < 2 ^ 32) && b != unlistedByte && Memory.wfFrom (k + 1) rest

/-- The canonical form. -/
def Memory.wf (m : Memory) : Bool := Memory.wfFrom 0 m

/-- `MemRead(a, 4)`, little-endian (20_memory.md R37). -/
def Memory.readWord (m : Memory) (a : Nat) : Word :=
  wordOfBytes (Memory.read m a) (Memory.read m (a + 1)) (Memory.read m (a + 2)) (Memory.read m (a + 3))

/-- `MemRead(a, 8)`: the word at `a + 4` above the word at `a` (20_memory.md R37, R39). -/
def Memory.readDouble (m : Memory) (a : Nat) : DWord := Memory.readWord m (a + 4) ++ Memory.readWord m a

/-- `MemWrite(a, 4, v)`, little-endian (20_memory.md R37). -/
def Memory.writeWord (m : Memory) (a : Nat) (v : Word) : Memory :=
  Memory.write (Memory.write (Memory.write (Memory.write m a (byteOfWord v 0)) (a + 1) (byteOfWord v 1))
    (a + 2) (byteOfWord v 2)) (a + 3) (byteOfWord v 3)

/-- `MemWrite(a, 8, v)` (20_memory.md R37, R39). -/
def Memory.writeDouble (m : Memory) (a : Nat) (v : DWord) : Memory :=
  Memory.writeWord (Memory.writeWord m a (lowHalf v)) (a + 4) (highHalf v)

/-! ## The launch memory: what exists (20_memory.md R43, R44, R49) -/

/-- The byte of program text at `a`; none outside `MEM.text`. -/
def textByte? : List Host.Cell → Nat → Option Byte
  | [], _ => none
  | (k, b) :: rest, a => if k = a then some b else textByte? rest a

/-- `a` is one of the region's addresses. -/
def Region.covers (r : Region) (a : Nat) : Bool := decide (r.base ≤ a) && decide (a < r.base + r.size)

/-- `a` is in `MEM.data`: an address of the 32-bit space, covered by a region, and not program text
(20_memory.md R35, R43, R49). -/
def Launch.inData (l : Launch) (a : Nat) : Bool :=
  decide (a < 2 ^ 32) && l.data.any (fun r => r.covers a) && (textByte? l.text a).isNone

/-- The `n` bytes from `a` are all in `MEM.data`, without wrapping past the top (20_memory.md R44). -/
def Launch.admits (l : Launch) (a n : Nat) : Bool := (List.range n).all (fun k => l.inData (a + k))

/-! ## Traps (60_exceptions.md R204, R206) -/

/-- `raise E(info)` at the current instruction: every write is discarded, the triple (cause, tval, epc) is recorded, and
the run is over (R204). No register, flag, memory byte or mode changes and no vector is fetched. There is no return from
a trap (R206), so no operation undoes this one. -/
def State.takeTrap (s : State) (c : Cause) (tval : Option Word) : State :=
  { s with trap := some ⟨c, tval, s.pc⟩ }

/-- `raise E(info)` as an instruction's outcome. -/
def raise (s : State) (c : Cause) (tval : Option Word) : Result := .next (s.takeTrap c tval)

/-- The cause codes of the privileged architecture, which no rule reads (60_exceptions.md R201):
`EnvironmentCall` has 8 or 11 by the mode, and the model's one mode is neither (R199). -/
def Cause.codes : Cause → List Nat
  | .instructionAddressMisaligned => [0]
  | .instructionAccessFault => [1]
  | .illegalInstruction => [2]
  | .breakpoint => [3]
  | .loadAddressMisaligned => [4]
  | .loadAccessFault => [5]
  | .storeAddressMisaligned => [6]
  | .storeAccessFault => [7]
  | .environmentCall => [8, 11]

/-! ## Instruction fetch (20_memory.md R38) -/

/-- The bytes of program text at `a` to `a + 3` as an instruction word; none unless all four are in `MEM.text`. -/
def textWord? (t : List Host.Cell) (a : Nat) : Option Word :=
  match textByte? t a, textByte? t (a + 1), textByte? t (a + 2), textByte? t (a + 3) with
  | some b0, some b1, some b2, some b3 => some (wordOfBytes b0 b1 b2 b3)
  | _, _, _, _ => none

/-- Fetch at `pc`: alignment first, then presence (20_memory.md R38; log 20). -/
def State.fetch (s : State) : Except Cause Word :=
  if s.pc.toNat % 4 ≠ 0 then .error .instructionAddressMisaligned
  else
    match textWord? s.launch.text s.pc.toNat with
    | some w => .ok w
    | none => .error .instructionAccessFault

/-- Put one byte of program text at `a`, in rising order of addresses. Only a launch does this (20_memory.md R49). -/
def placeTextByte : List Host.Cell → Nat → Byte → List Host.Cell
  | [], a, v => [(a, v)]
  | (k, b) :: rest, a, v =>
    if a < k then (a, v) :: (k, b) :: rest
    else if a = k then (k, v) :: rest
    else (k, b) :: placeTextByte rest a v

/-- Put a word of program text at `a`, little-endian (20_memory.md R38). -/
def placeTextWord (t : List Host.Cell) (a : Nat) (w : Word) : List Host.Cell :=
  placeTextByte (placeTextByte (placeTextByte (placeTextByte t a (byteOfWord w 0)) (a + 1) (byteOfWord w 1))
    (a + 2) (byteOfWord w 2)) (a + 3) (byteOfWord w 3)

/-! ## Checked memory access (20_memory.md R41, R44; 60_exceptions.md R202) -/

/-- Why an `n`-byte access at `ea` is refused, if it is: misaligned under `MISALIGNED = trap` first, then not admitted. -/
def State.accessFault? (s : State) (ea : Word) (n : Nat) (misaligned absent : Cause) : Option Cause :=
  if s.launch.params.misaligned = .trap ∧ ea.toNat % n ≠ 0 then some misaligned
  else if s.launch.admits ea.toNat n then none
  else some absent

/-- Run `k` if an `n`-byte load at `ea` is allowed; raise otherwise, recording `ea` (60_exceptions.md R193, R194). -/
def withLoad (s : State) (ea : Word) (n : Nat) (k : Result) : Result :=
  match s.accessFault? ea n .loadAddressMisaligned .loadAccessFault with
  | some c => raise s c (some ea)
  | none => k

/-- Run `k` if an `n`-byte store at `ea` is allowed; raise otherwise, recording `ea` (60_exceptions.md R195, R196). -/
def withStore (s : State) (ea : Word) (n : Nat) (k : Result) : Result :=
  match s.accessFault? ea n .storeAddressMisaligned .storeAccessFault with
  | some c => raise s c (some ea)
  | none => k

end Sys2Proof.Machine
end

