-- ==== Sys2Proof/Machine/Flags.lean ====
section
/-! DEFINITION. The five accrued flags, `fcsr` and its three CSR views (10_state.md R25 to R31). -/

namespace Sys2Proof.Machine

/-- A set of the flags NV DZ OF UF NX, bit 4 down to bit 0 (10_state.md R26; 00_scope.md R12). -/
abbrev FlagSet := BitVec 5

/-- No flag. -/
def noFlags : FlagSet := 0b00000

/-- Invalid operation. -/
def flagNV : FlagSet := 0b10000

/-- Divide by zero. -/
def flagDZ : FlagSet := 0b01000

/-- Overflow. -/
def flagOF : FlagSet := 0b00100

/-- Underflow. -/
def flagUF : FlagSet := 0b00010

/-- Inexact. -/
def flagNX : FlagSet := 0b00001

/-- The set with `fl` if the condition holds, else the empty set. -/
def flagIf (c : Bool) (fl : FlagSet) : FlagSet := if c then fl else noFlags

/-- `fcsr[4:0]` (10_state.md R26). -/
def State.fflags (s : State) : FlagSet := s.fcsr.extractLsb' 0 5

/-- `fcsr[7:5]` (10_state.md R26). -/
def State.frm (s : State) : BitVec 3 := s.fcsr.extractLsb' 5 3

/-- `accrue(fl)`: `fcsr[4:0] <- fcsr[4:0] | fl` (10_state.md R29). -/
def State.accrue (s : State) (fl : FlagSet) : State := s.setFcsr (s.fcsr ||| fl.setWidth 32)

/-- The CSRs of the model (10_state.md R30). -/
inductive Csr where
  | fflags
  | frm
  | fcsr
  deriving DecidableEq, Repr

/-- The CSR a number names: 0x001, 0x002, 0x003; no other is described (10_state.md R30; 47_base_subset.md R189). -/
def csrOfNumber (n : BitVec 12) : Option Csr :=
  if n = 0x001 then some .fflags
  else if n = 0x002 then some .frm
  else if n = 0x003 then some .fcsr
  else none

/-- `CSRread(n)`, the "reads as" column of 10_state.md R30. -/
def State.readCsr (s : State) : Csr → Word
  | .fflags => s.fflags.setWidth 32
  | .frm => s.frm.setWidth 32
  | .fcsr => (s.fcsr.extractLsb' 0 8).setWidth 32

/-- `CSRwrite(n, v)`, the "a write does" column of 10_state.md R30. Bits 31:8 ignore writes (R31). -/
def State.writeCsr (s : State) (c : Csr) (v : Word) : State :=
  match c with
  | .fflags => s.setFcsr (s.fcsr.extractLsb' 5 27 ++ v.extractLsb' 0 5)
  | .frm => s.setFcsr (s.fcsr.extractLsb' 8 24 ++ v.extractLsb' 0 3 ++ s.fcsr.extractLsb' 0 5)
  | .fcsr => s.setFcsr (s.fcsr.extractLsb' 8 24 ++ v.extractLsb' 0 8)

end Sys2Proof.Machine
end

