-- ==== Sys2Proof/Machine/Format.lean ====
section
/-! DEFINITION. The two floating-point formats and the meaning of their bit patterns (40_numerics.md R74 to R78, R99).

A pattern of either format is a bit vector of its width; the functions take the format beside it. -/

namespace Sys2Proof.Machine

/-- A binary format: the widths of the biased exponent and of the trailing significand (40_numerics.md R74). -/
structure Format where
  expBits : Nat
  fracBits : Nat
  deriving DecidableEq, Repr

/-- binary32, `S` (40_numerics.md R74). -/
def binary32 : Format := ⟨8, 23⟩

/-- binary64, `D` (40_numerics.md R74). -/
def binary64 : Format := ⟨11, 52⟩

/-- The precision `p`, the hidden bit included (40_numerics.md R74). -/
def Format.precision (f : Format) : Nat := f.fracBits + 1

/-- `emax`, the bias (40_numerics.md R74). -/
def Format.emax (f : Format) : Int := 2 ^ (f.expBits - 1) - 1

/-- `emin = 1 - emax` (40_numerics.md R74). -/
def Format.emin (f : Format) : Int := 1 - f.emax

/-- The exponent of the smallest subnormal magnitude, `emin - p + 1` (40_numerics.md R74). -/
def Format.qmin (f : Format) : Int := f.emin - f.fracBits

/-- The all-ones exponent field (40_numerics.md R75). -/
def Format.expMax (f : Format) : Nat := 2 ^ f.expBits - 1

/-- The sign bit's weight. -/
def Format.signWeight (f : Format) : Nat := 2 ^ (f.expBits + f.fracBits)

/-! ## Fields and classes (40_numerics.md R75, R76) -/

/-- The sign bit `s`. -/
def signBit {w : Nat} (f : Format) (a : BitVec w) : Bool := a.getLsbD (f.expBits + f.fracBits)

/-- The biased exponent `e`. -/
def expField {w : Nat} (f : Format) (a : BitVec w) : Nat := a.toNat / 2 ^ f.fracBits % 2 ^ f.expBits

/-- The trailing significand `t`. -/
def fracField {w : Nat} (f : Format) (a : BitVec w) : Nat := a.toNat % 2 ^ f.fracBits

/-- e = 2^w - 1 and t ≠ 0 (R75). -/
def isNaN {w : Nat} (f : Format) (a : BitVec w) : Bool :=
  decide (expField f a = f.expMax) && decide (fracField f a ≠ 0)

/-- e = 2^w - 1 and t = 0 (R75). -/
def isInf {w : Nat} (f : Format) (a : BitVec w) : Bool :=
  decide (expField f a = f.expMax) && decide (fracField f a = 0)

/-- e = 0 and t = 0 (R75). -/
def isZero {w : Nat} (f : Format) (a : BitVec w) : Bool :=
  decide (expField f a = 0) && decide (fracField f a = 0)

/-- e = 0 and t ≠ 0 (R75). -/
def isSubnormal {w : Nat} (f : Format) (a : BitVec w) : Bool :=
  decide (expField f a = 0) && decide (fracField f a ≠ 0)

/-- A NaN whose top trailing-significand bit is 0 (40_numerics.md R76). -/
def isSignaling {w : Nat} (f : Format) (a : BitVec w) : Bool := isNaN f a && !a.getLsbD (f.fracBits - 1)

/-! ## Patterns -/

/-- The pattern with sign `sg` and the given exponent and significand bits. -/
def packBits {w : Nat} (f : Format) (sg : Bool) (body : Nat) : BitVec w :=
  BitVec.ofNat w ((if sg then f.signWeight else 0) + body)

/-- The zero with sign `sg` (R75). -/
def zeroOf {w : Nat} (f : Format) (sg : Bool) : BitVec w := packBits f sg 0

/-- The infinity with sign `sg` (R75). -/
def infOf {w : Nat} (f : Format) (sg : Bool) : BitVec w := packBits f sg (f.expMax * 2 ^ f.fracBits)

/-- The largest finite magnitude `MAXF` with sign `sg` (40_numerics.md R74). -/
def maxFiniteOf {w : Nat} (f : Format) (sg : Bool) : BitVec w := packBits f sg (f.expMax * 2 ^ f.fracBits - 1)

/-- The canonical quiet NaN of binary32 (40_numerics.md R77). -/
def canonicalNaN32 : Word := 0x7fc00000

/-- The canonical quiet NaN of binary64 (40_numerics.md R77). -/
def canonicalNaN64 : DWord := 0x7ff8000000000000

/-- The binary32 quiet NaN with sign `b[22]` and payload `b[21:0]`: the patterns a draw ranges over (40_numerics.md
R77). -/
def quietNaN32 (b : BitVec 23) : Word :=
  b.extractLsb' 22 1 ++ (0xff : BitVec 8) ++ (1 : BitVec 1) ++ b.extractLsb' 0 22

/-- The binary64 quiet NaN with sign `b[51]` and payload `b[50:0]` (40_numerics.md R77). -/
def quietNaN64 (b : BitVec 52) : DWord :=
  b.extractLsb' 51 1 ++ (0x7ff : BitVec 11) ++ (1 : BitVec 1) ++ b.extractLsb' 0 51

/-- The pattern with its sign bit inverted (40_numerics.md R89). -/
def flipSign {w : Nat} (f : Format) (a : BitVec w) : BitVec w := a ^^^ BitVec.ofNat w f.signWeight

/-- The pattern with sign bit `sg` and every other bit of `a` (46_sign_classify.md R152 to R157). -/
def withSign {w : Nat} (f : Format) (sg : Bool) (a : BitVec w) : BitVec w :=
  if signBit f a = sg then a else flipSign f a

/-! ## Values (40_numerics.md R75) -/

/-- The exact number `num * 2^exp`. -/
structure BinNum where
  num : Int
  exp : Int
  deriving DecidableEq, Repr

/-- The magnitude of a zero, subnormal or normal pattern, in units of `2^(unitExp f a)` (R75). -/
def significand {w : Nat} (f : Format) (a : BitVec w) : Nat :=
  if expField f a = 0 then fracField f a else 2 ^ f.fracBits + fracField f a

/-- The exponent of the unit of `significand` (R75). -/
def unitExp {w : Nat} (f : Format) (a : BitVec w) : Int :=
  if expField f a = 0 then f.qmin else f.qmin + (expField f a - 1)

/-- `val_F(a)` for a zero, subnormal or normal pattern (R75). -/
def valueOf {w : Nat} (f : Format) (a : BitVec w) : BinNum :=
  ⟨if signBit f a then -(significand f a : Int) else significand f a, unitExp f a⟩

/-- `num` in units of `2^e`, for `e ≤ exp`. -/
def BinNum.numAt (r : BinNum) (e : Int) : Int := r.num * (2 ^ (r.exp - e).toNat : Nat)

/-- Exact sum. -/
def BinNum.add (r q : BinNum) : BinNum :=
  ⟨r.numAt (min r.exp q.exp) + q.numAt (min r.exp q.exp), min r.exp q.exp⟩

/-- Exact product. -/
def BinNum.mul (r q : BinNum) : BinNum := ⟨r.num * q.num, r.exp + q.exp⟩

/-- Exact negation when asked. -/
def BinNum.negIf (c : Bool) (r : BinNum) : BinNum := if c then ⟨-r.num, r.exp⟩ else r

/-- Exact order. -/
def BinNum.lt (r q : BinNum) : Bool :=
  decide (r.numAt (min r.exp q.exp) < q.numAt (min r.exp q.exp))

/-- Exact equality of values. -/
def BinNum.beq (r q : BinNum) : Bool :=
  decide (r.numAt (min r.exp q.exp) = q.numAt (min r.exp q.exp))

/-! ## Classification (40_numerics.md R99) -/

/-- The bit of the fclass mask that is set. -/
def classBit {w : Nat} (f : Format) (a : BitVec w) : Nat :=
  if isNaN f a then (if isSignaling f a then 8 else 9)
  else if isInf f a then (if signBit f a then 0 else 7)
  else if isZero f a then (if signBit f a then 3 else 4)
  else if isSubnormal f a then (if signBit f a then 2 else 5)
  else (if signBit f a then 1 else 6)

/-- `class_F(a)`, the 10-bit mask with one bit set. -/
def classMask {w : Nat} (f : Format) (a : BitVec w) : BitVec 10 := BitVec.ofNat 10 (2 ^ classBit f a)

end Sys2Proof.Machine
end

