-- ==== Sys2Proof/Machine/Rounding.lean ====
section
/-! DEFINITION. Rounding an exact positive real to a format under a mode, with its flags (40_numerics.md R79, R82 to
R85).

An exact magnitude is a ratio or a square root; all that rounding asks of it is where it lies on a grid of spacing
`2^t`: the number of whole steps below it and how the rest compares with half a step. -/

namespace Sys2Proof.Machine

/-- The exact positive reals the operations produce: `num / den * 2^exp`, and `√num * 2^exp`. -/
inductive Magnitude where
  | ratio (num den : Nat) (exp : Int)
  | root (num : Nat) (exp : Int)
  deriving DecidableEq, Repr

/-- How far a value lies above the grid point below it, against half a step. -/
inductive Rest where
  | exact
  | belowHalf
  | half
  | aboveHalf
  deriving DecidableEq, Repr

/-- Compare twice the rest with the whole step. -/
def Rest.ofHalf (zero : Bool) (o : Ordering) : Rest :=
  if zero then .exact
  else match o with
    | .lt => .belowHalf
    | .eq => .half
    | .gt => .aboveHalf

/-- The greatest `r` with `r < 2^bits` and `r * r ≤ n`, found bit by bit from `acc`. -/
def isqrtFrom (n : Nat) : Nat → Nat → Nat
  | 0, acc => acc
  | bits + 1, acc =>
    if (acc + 2 ^ bits) * (acc + 2 ^ bits) ≤ n then isqrtFrom n bits (acc + 2 ^ bits) else isqrtFrom n bits acc

/-- The integer square root. -/
def isqrt (n : Nat) : Nat := isqrtFrom n (n.log2 / 2 + 1) 0

/-- Position of `num / den` on the integers. -/
def ratioOnGrid (num den : Nat) : Nat × Rest :=
  (num / den, .ofHalf (num % den == 0) (compare (2 * (num % den)) den))

/-- Position of `√(num / den)` on the integers: `k = ⌊√(num/den)⌋`, and `2√(num/den)` against `2k + 1`. -/
def rootOnGrid (num den : Nat) : Nat × Rest :=
  let k := isqrt (num / den)
  (k, .ofHalf (k * k * den == num) (compare (4 * num) ((2 * k + 1) * (2 * k + 1) * den)))

/-- Position of a magnitude on the grid of spacing `2^t` (the `lo` of R82 in grid units, and the rest). -/
def Magnitude.onGrid (a : Magnitude) (t : Int) : Nat × Rest :=
  match a with
  | .ratio num den exp => ratioOnGrid (num * 2 ^ (exp - t).toNat) (den * 2 ^ (t - exp).toNat)
  | .root num exp => rootOnGrid (num * 4 ^ (exp - t).toNat) (4 ^ (t - exp).toNat)

/-- An exponent that is `⌊log2 a⌋` or one more. -/
def Magnitude.log2Upper : Magnitude → Int
  | .ratio num den exp => (num.log2 : Int) - den.log2 + exp
  | .root num exp => (num.log2 / 2 : Nat) + exp

/-- `E = ⌊log2 a⌋` (R82). -/
def Magnitude.ilog2 (a : Magnitude) : Int :=
  if 1 ≤ (a.onGrid a.log2Upper).1 then a.log2Upper else a.log2Upper - 1

/-- `pick_m(sg, a, g)` in grid units (R79, R82): `lo` if the value is on the grid, else `lo` or `hi` by the mode, the
directed modes taken on the signed value. -/
def pick (m : RoundingMode) (sg : Bool) (pos : Nat × Rest) : Nat :=
  match pos.2 with
  | .exact => pos.1
  | rest =>
    match m with
    | .rtz => pos.1
    | .rdn => if sg then pos.1 + 1 else pos.1
    | .rup => if sg then pos.1 else pos.1 + 1
    | .rne =>
      match rest with
      | .belowHalf => pos.1
      | .aboveHalf => pos.1 + 1
      | _ => if pos.1 % 2 = 0 then pos.1 else pos.1 + 1
    | .rmm =>
      match rest with
      | .belowHalf => pos.1
      | _ => pos.1 + 1

/-- `k1 * 2^e1 < k2 * 2^e2`, exactly. -/
def scaledLt (k1 : Nat) (e1 : Int) (k2 : Nat) (e2 : Int) : Bool := (BinNum.mk k1 e1).lt (BinNum.mk k2 e2)

/-- The result of an overflow (40_numerics.md R83). -/
def overflowResult {w : Nat} (f : Format) (m : RoundingMode) (sg : Bool) : BitVec w :=
  match m with
  | .rne => infOf f sg
  | .rmm => infOf f sg
  | .rtz => maxFiniteOf f sg
  | .rdn => if sg then infOf f sg else maxFiniteOf f sg
  | .rup => if sg then maxFiniteOf f sg else infOf f sg

/-- `encode_F(sg, k * 2^t)` for `qmin ≤ t` and a magnitude the format has: `k ≤ 2^p`, and `2^(p-1) ≤ k` unless
`t = qmin`. Counted from the grid of spacing `2^qmin`, every step of `t` adds one to the exponent field, whose
lowest nonzero value the hidden bit of `k` supplies (R75, R82). -/
def encodeMagnitude {w : Nat} (f : Format) (sg : Bool) (k : Nat) (t : Int) : BitVec w :=
  packBits f sg ((t - f.qmin).toNat * 2 ^ f.fracBits + k)

/-- `ru > MAXF` for `ru = k * 2^t` (R82, R83). -/
def overflows (f : Format) (k : Nat) (t : Int) : Bool :=
  scaledLt (2 ^ f.precision - 1) (f.emax - f.fracBits) k t

/-- The grid spacing exponent with unbounded exponent range, `E - p + 1` (R82). -/
def unboundedGrid (f : Format) (a : Magnitude) : Int := a.ilog2 - f.fracBits

/-- The grid the result lies on: the fixed subnormal grid below the normal range (R82). -/
def resultGrid (f : Format) (a : Magnitude) : Int :=
  if a.ilog2 < f.emin then f.qmin else unboundedGrid f a

/-- `tiny` (40_numerics.md R84): after rounding, `ru < 2^emin`; before, `a < 2^emin`. -/
def isTiny (f : Format) (tin : Tininess) (m : RoundingMode) (sg : Bool) (a : Magnitude) : Bool :=
  match tin with
  | .after => scaledLt (pick m sg (a.onGrid (unboundedGrid f a))) (unboundedGrid f a) 1 f.emin
  | .before => decide (a.ilog2 < f.emin)

/-- `round_F(m, r)` for `r` of sign `sg` and magnitude `a` (40_numerics.md R82 to R85). -/
def roundMagnitude {w : Nat} (f : Format) (tin : Tininess) (m : RoundingMode) (sg : Bool) (a : Magnitude) :
    BitVec w × FlagSet :=
  if overflows f (pick m sg (a.onGrid (unboundedGrid f a))) (unboundedGrid f a) then
    (overflowResult f m sg, flagOF ||| flagNX)
  else
    let pos := a.onGrid (resultGrid f a)
    (encodeMagnitude f sg (pick m sg pos) (resultGrid f a),
      flagIf (pos.2 != .exact) flagNX ||| flagIf (isTiny f tin m sg a && pos.2 != .exact) flagUF)

/-- `round_F(m, r)` for a nonzero `r = num * 2^exp`. -/
def roundNum {w : Nat} (f : Format) (tin : Tininess) (m : RoundingMode) (r : BinNum) : BitVec w × FlagSet :=
  roundMagnitude f tin m (decide (r.num < 0)) (.ratio r.num.natAbs 1 r.exp)

end Sys2Proof.Machine
end

