-- ==== Sys2Proof/Machine/Numerics.lean ====
section
/-! DEFINITION. The arithmetic primitives (40_numerics.md R78, R86, R89 to R98). Each returns the result pattern and
the flags it raises, a function of the operands, the format, the mode and the parameters alone (R101). -/

namespace Sys2Proof.Machine

/-- What the parameters fix for one operation with results of width `w`: `TININESS`, the NaN it produces
(`NAN_RESULT`), `MINMAX`, and which of two zeros `minnum2008` returns. -/
structure NumEnv (w : Nat) where
  tininess : Tininess
  nan : BitVec w
  minMax : MinMax
  firstZero : Bool
  deriving DecidableEq, Repr

/-- The result of an operation with a NaN operand: the produced NaN, with NV for a signaling operand
(40_numerics.md R78). -/
def nanResult {w : Nat} (env : NumEnv w) (signaling : Bool) : BitVec w × FlagSet := (env.nan, flagIf signaling flagNV)

/-- The result of an invalid operation: the produced NaN and NV. -/
def invalidResult {w : Nat} (env : NumEnv w) : BitVec w × FlagSet := (env.nan, flagNV)

/-- The sign of an exactly zero sum of addends with signs `s1` and `s2` (40_numerics.md R86 (b)). -/
def zeroSumSign (m : RoundingMode) (s1 s2 : Bool) : Bool := if s1 = s2 then s1 else decide (m = .rdn)

/-- `add_F(m, a, b)` (40_numerics.md R89). -/
def addF {w : Nat} (f : Format) (env : NumEnv w) (m : RoundingMode) (a b : BitVec w) : BitVec w × FlagSet :=
  if isNaN f a || isNaN f b then nanResult env (isSignaling f a || isSignaling f b)
  else if isInf f a && isInf f b && (signBit f a != signBit f b) then invalidResult env
  else if isInf f a then (a, noFlags)
  else if isInf f b then (b, noFlags)
  else
    let r := (valueOf f a).add (valueOf f b)
    if r.num = 0 then (zeroOf f (zeroSumSign m (signBit f a) (signBit f b)), noFlags)
    else roundNum f env.tininess m r

/-- `sub_F(m, a, b)`: addition with the sign of `b` inverted, which leaves its NaN tests as they are
(40_numerics.md R89). -/
def subF {w : Nat} (f : Format) (env : NumEnv w) (m : RoundingMode) (a b : BitVec w) : BitVec w × FlagSet :=
  if isNaN f a || isNaN f b then nanResult env (isSignaling f a || isSignaling f b)
  else addF f env m a (flipSign f b)

/-- `mul_F(m, a, b)` (40_numerics.md R90). -/
def mulF {w : Nat} (f : Format) (env : NumEnv w) (m : RoundingMode) (a b : BitVec w) : BitVec w × FlagSet :=
  if isNaN f a || isNaN f b then nanResult env (isSignaling f a || isSignaling f b)
  else
    let sg := signBit f a ^^ signBit f b
    if (isInf f a && isZero f b) || (isZero f a && isInf f b) then invalidResult env
    else if isInf f a || isInf f b then (infOf f sg, noFlags)
    else
      let r := (valueOf f a).mul (valueOf f b)
      if r.num = 0 then (zeroOf f sg, noFlags) else roundNum f env.tininess m r

/-- `div_F(m, a, b)` (40_numerics.md R91). -/
def divF {w : Nat} (f : Format) (env : NumEnv w) (m : RoundingMode) (a b : BitVec w) : BitVec w × FlagSet :=
  if isNaN f a || isNaN f b then nanResult env (isSignaling f a || isSignaling f b)
  else
    let sg := signBit f a ^^ signBit f b
    if (isInf f a && isInf f b) || (isZero f a && isZero f b) then invalidResult env
    else if isInf f a then (infOf f sg, noFlags)
    else if isInf f b then (zeroOf f sg, noFlags)
    else if isZero f b then (infOf f sg, flagDZ)
    else if isZero f a then (zeroOf f sg, noFlags)
    else
      roundMagnitude f env.tininess m sg (.ratio (significand f a) (significand f b) (unitExp f a - unitExp f b))

/-- The square root of `num * 2^exp`, with the odd factor 2 of an odd exponent under the root. -/
def rootMagnitude (num : Nat) (exp : Int) : Magnitude :=
  if exp % 2 = 0 then .root num (exp / 2) else .root (2 * num) ((exp - 1) / 2)

/-- `sqrt_F(m, a)` (40_numerics.md R92). -/
def sqrtF {w : Nat} (f : Format) (env : NumEnv w) (m : RoundingMode) (a : BitVec w) : BitVec w × FlagSet :=
  if isNaN f a then nanResult env (isSignaling f a)
  else if isZero f a then (a, noFlags)
  else if signBit f a then invalidResult env
  else if isInf f a then (a, noFlags)
  else roundMagnitude f env.tininess m false (rootMagnitude (significand f a) (unitExp f a))

/-- `fma_F(m, a, b, c, np, nc)`: `(-1)^np a b + (-1)^nc c`, rounded once (40_numerics.md R93). -/
def fmaF {w : Nat} (f : Format) (env : NumEnv w) (m : RoundingMode) (a b c : BitVec w) (np nc : Bool) :
    BitVec w × FlagSet :=
  if (isInf f a && isZero f b) || (isZero f a && isInf f b) then invalidResult env
  else if isNaN f a || isNaN f b || isNaN f c then
    nanResult env (isSignaling f a || isSignaling f b || isSignaling f c)
  else
    let sp := signBit f a ^^ signBit f b ^^ np
    let sc := signBit f c ^^ nc
    if isInf f a || isInf f b then
      if isInf f c && (sc != sp) then invalidResult env else (infOf f sp, noFlags)
    else if isInf f c then (infOf f sc, noFlags)
    else
      let r := (((valueOf f a).mul (valueOf f b)).negIf np).add ((valueOf f c).negIf nc)
      if r.num = 0 then (zeroOf f (zeroSumSign m sp sc), noFlags) else roundNum f env.tininess m r

/-! ## Comparison (40_numerics.md R94, R95) -/

/-- The numeric order on non-NaN patterns: −∞ below and +∞ above every finite value (R95). -/
def numLt {w : Nat} (f : Format) (a b : BitVec w) : Bool :=
  if isInf f a then signBit f a && !(isInf f b && signBit f b)
  else if isInf f b then !signBit f b
  else (valueOf f a).lt (valueOf f b)

/-- Numeric equality of non-NaN patterns: the two zeros are equal, each infinity equals itself (R95). -/
def numEq {w : Nat} (f : Format) (a b : BitVec w) : Bool :=
  if isInf f a || isInf f b then isInf f a && isInf f b && (signBit f a == signBit f b)
  else (valueOf f a).beq (valueOf f b)

/-- `eq_F(a, b)`, the quiet comparison (R95). -/
def eqF {w : Nat} (f : Format) (a b : BitVec w) : Bool × FlagSet :=
  if isNaN f a || isNaN f b then (false, flagIf (isSignaling f a || isSignaling f b) flagNV)
  else (numEq f a b, noFlags)

/-- `lt_F(a, b)`, a signaling comparison (R95). -/
def ltF {w : Nat} (f : Format) (a b : BitVec w) : Bool × FlagSet :=
  if isNaN f a || isNaN f b then (false, flagNV) else (numLt f a b, noFlags)

/-- `le_F(a, b)`, a signaling comparison (R95). -/
def leF {w : Nat} (f : Format) (a b : BitVec w) : Bool × FlagSet :=
  if isNaN f a || isNaN f b then (false, flagNV) else (numLt f a b || numEq f a b, noFlags)

/-- The zero `min` or `max` returns for zeros of opposite sign: −0 for `min`, +0 for `max` under `number`; either under
`minnum2008` (40_numerics.md R94). -/
def zeroChoice {w : Nat} (f : Format) (env : NumEnv w) (isMax : Bool) (a b : BitVec w) : BitVec w :=
  match env.minMax with
  | .number => if signBit f a != isMax then a else b
  | .minnum2008 => if env.firstZero then a else b

/-- `min_F(a, b)`, or `max_F(a, b)` when `isMax` (40_numerics.md R94). -/
def minMaxF {w : Nat} (f : Format) (env : NumEnv w) (isMax : Bool) (a b : BitVec w) : BitVec w × FlagSet :=
  let anySignaling := isSignaling f a || isSignaling f b
  let fl := flagIf anySignaling flagNV
  if isNaN f a && isNaN f b then (env.nan, fl)
  else if anySignaling && decide (env.minMax = .minnum2008) then invalidResult env
  else if isNaN f a then (b, fl)
  else if isNaN f b then (a, fl)
  else if isZero f a && isZero f b && (signBit f a != signBit f b) then (zeroChoice f env isMax a b, fl)
  else if numLt f a b then (if isMax then b else a, fl)
  else if numLt f b a then (if isMax then a else b, fl)
  else (a, fl)

/-! ## Conversions (40_numerics.md R96 to R98) -/

/-- The least 32-bit integer of the signedness. -/
def intLo (signed : Bool) : Int := if signed then -2 ^ 31 else 0

/-- The greatest 32-bit integer of the signedness. -/
def intHi (signed : Bool) : Int := if signed then 2 ^ 31 - 1 else 2 ^ 32 - 1

/-- `to_int(m, a, signed)` (40_numerics.md R96). -/
def toIntF {w : Nat} (f : Format) (m : RoundingMode) (signed : Bool) (a : BitVec w) : Word × FlagSet :=
  if isNaN f a then (BitVec.ofInt 32 (intHi signed), flagNV)
  else if isInf f a then (BitVec.ofInt 32 (if signBit f a then intLo signed else intHi signed), flagNV)
  else if isZero f a then (0, noFlags)
  else
    let pos := (Magnitude.ratio (significand f a) 1 (unitExp f a)).onGrid 0
    let k := pick m (signBit f a) pos
    let n : Int := if signBit f a then -(k : Int) else k
    if intHi signed < n then (BitVec.ofInt 32 (intHi signed), flagNV)
    else if n < intLo signed then (BitVec.ofInt 32 (intLo signed), flagNV)
    else (BitVec.ofInt 32 n, flagIf (pos.2 != .exact) flagNX)

/-- `signed(v)` or `unsigned(v)` (00_scope.md R9). -/
def intOfWord (signed : Bool) (v : Word) : Int := if signed then v.toInt else v.toNat

/-- `from_int(F, m, v, signed)` (40_numerics.md R97). -/
def fromIntF {w : Nat} (f : Format) (tin : Tininess) (m : RoundingMode) (signed : Bool) (v : Word) :
    BitVec w × FlagSet :=
  if intOfWord signed v = 0 then (zeroOf f false, noFlags) else roundNum f tin m ⟨intOfWord signed v, 0⟩

/-- `cvt_F_G(m, a)`: from format `src` to format `dst` (40_numerics.md R98). -/
def convertF {v w : Nat} (src dst : Format) (env : NumEnv w) (m : RoundingMode) (a : BitVec v) : BitVec w × FlagSet :=
  if isNaN src a then nanResult env (isSignaling src a)
  else if isInf src a then (infOf dst (signBit src a), noFlags)
  else if isZero src a then (zeroOf dst (signBit src a), noFlags)
  else roundNum dst env.tininess m (valueOf src a)

end Sys2Proof.Machine
end

