-- ==== Sys2Proof/Machine/Operands.lean ====
section
/-! DEFINITION. Every operand form and every way a result is written: rounding mode, single and double reads and
writes, effective addresses, branch targets, and what ends an instruction that completes. -/

namespace Sys2Proof.Machine

/-! ## Free values (10_state.md R20; 40_numerics.md R77, R94; 70_reset_and_hazards.md R217; log 18) -/

/-- Some parameter makes instructions draw. -/
def Params.draws (p : Params) : Bool :=
  decide (p.nanResult = .draw) || decide (p.boxWrite = .draw) || decide (p.minMax = .minnum2008)

/-- After an instruction that may have drawn, the next draw is a fresh one. -/
def State.countDraw (s : State) : State := { s with draws := if Params.draws s.launch.params then s.draws + 1 else s.draws }

/-- The upper half of a single-precision write (10_state.md R20). -/
def State.upperHalf (s : State) : Word :=
  match s.launch.params.boxWrite with
  | .ones => 0xffffffff
  | .draw => Config.freeUpper s.draws

/-- The binary32 NaN an operation produces (40_numerics.md R77). -/
def State.nan32 (s : State) : Word :=
  match s.launch.params.nanResult with
  | .canonical => canonicalNaN32
  | .draw => quietNaN32 (Config.freeNanBits32 s.draws)

/-- The binary64 NaN an operation produces (40_numerics.md R77). -/
def State.nan64 (s : State) : DWord :=
  match s.launch.params.nanResult with
  | .canonical => canonicalNaN64
  | .draw => quietNaN64 (Config.freeNanBits64 s.draws)

/-- The environment of an operation with a binary32 result. -/
def State.envS (s : State) : NumEnv 32 :=
  ⟨s.launch.params.tininess, s.nan32, s.launch.params.minMax, Config.freeFirstZero s.draws⟩

/-- The environment of an operation with a binary64 result. -/
def State.envD (s : State) : NumEnv 64 :=
  ⟨s.launch.params.tininess, s.nan64, s.launch.params.minMax, Config.freeFirstZero s.draws⟩

/-! ## Register operands -/

/-- The 32 bits a single-precision instruction reads from a register's content (10_state.md R19). -/
def unboxS (c : BoxCheck) (v : DWord) : Word :=
  match c with
  | .ignore => lowHalf v
  | .check => if highHalf v = 0xffffffff then lowHalf v else canonicalNaN32

/-- `S(f[r])` (10_state.md R19). -/
def State.readS (s : State) (r : FReg) : Word := unboxS s.launch.params.boxCheck (s.readF r)

/-- `f[r] <-S v` (10_state.md R20). -/
def State.writeS (s : State) (r : FReg) (v : Word) : State := s.writeF r (s.upperHalf ++ v)

/-! ## Immediates, addresses and targets -/

/-- `sext_32(imm[11:0])` (30_encoding.md R57, R58). -/
def sext12 (imm : BitVec 12) : Word := imm.signExtend 32

/-- `EA = x[rs1] + sext_32(imm[11:0])`, modulo 2^32 (41_load_store.md R105). -/
def State.effectiveAddress (s : State) (rs1 : XReg) (imm : BitVec 12) : Word := s.readX rs1 + sext12 imm

/-- `pc + imm_B` (47_base_subset.md R168, R176). -/
def State.branchTarget (s : State) (off : BitVec 13) : Word := s.pc + off.signExtend 32

/-- `pc + imm_J` (47_base_subset.md R168, R179). -/
def State.jumpTarget (s : State) (off : BitVec 21) : Word := s.pc + off.signExtend 32

/-- `(x[rs1] + sext_32(imm)) with bit 0 cleared` (47_base_subset.md R180). -/
def State.jalrTarget (s : State) (rs1 : XReg) (imm : BitVec 12) : Word := s.effectiveAddress rs1 imm &&& 0xfffffffe

/-! ## Rounding mode (40_numerics.md R80, R81) -/

/-- `RM(rm)`; none where it raises. -/
def State.roundingMode? (s : State) (rm : RmField) : Option RoundingMode :=
  match rm with
  | .static m => some m
  | .dyn => RoundingMode.ofBits? s.frm
  | .reserved101 => none
  | .reserved110 => none

/-- Evaluate `RM(rm)` first: continue with the mode, or raise `IllegalInstruction` with the instruction word and write
nothing (40_numerics.md R80, R81; 60_exceptions.md R192 (b); log 20). -/
def withRounding (i : Instr) (rm : RmField) (s : State) (k : RoundingMode → Result) : Result :=
  match s.roundingMode? rm with
  | some m => k m
  | none => raise s .illegalInstruction (some (encode i))

/-! ## Completing an instruction (00_scope.md R11) -/

/-- Write an x register, accrue, go on: comparisons, conversions to integer, moves and the base subset. -/
def finishX (s : State) (rd : XReg) (r : Word × FlagSet) : Result :=
  .next ((s.writeX rd r.1).accrue r.2).advance

/-- Write a single, accrue, go on. -/
def finishS (s : State) (rd : FReg) (r : Word × FlagSet) : Result :=
  .next ((s.writeS rd r.1).accrue r.2).countDraw.advance

/-- Write a double, accrue, go on. -/
def finishD (s : State) (rd : FReg) (r : DWord × FlagSet) : Result :=
  .next ((s.writeF rd r.1).accrue r.2).countDraw.advance

/-- Write an x register and go on; no flag (47_base_subset.md R169 to R174; 45_convert_move.md R149; 46_sign_classify.md
R158). -/
def writeXNext (s : State) (rd : XReg) (v : Word) : Result := .next (s.writeX rd v).advance

/-- Write a single's bits and go on; no flag (41_load_store.md R106; 45_convert_move.md R150; 46_sign_classify.md
R152). -/
def writeSNext (s : State) (rd : FReg) (v : Word) : Result := .next (s.writeS rd v).countDraw.advance

/-- Write a double's bits and go on; no flag (41_load_store.md R107; 46_sign_classify.md R155). -/
def writeDNext (s : State) (rd : FReg) (v : DWord) : Result := .next (s.writeF rd v).advance

/-- Replace data memory and go on (41_load_store.md R108, R109). -/
def storeNext (s : State) (m : Memory) : Result := .next (s.setMem m).advance

/-- The 32-bit 0 or 1 of a comparison (44_compare.md, introduction). -/
def wordOfBool (b : Bool) : Word := if b then 1 else 0

/-- Continue at `t`, after `pre`, if `t` is a multiple of 4; otherwise raise on the branch or jump itself, which then
writes no register (47_base_subset.md R168; 60_exceptions.md R197). -/
def transfer (s : State) (t : Word) (pre : State) : Result :=
  if t.toNat % 4 = 0 then .next (pre.setPc t) else raise s .instructionAddressMisaligned (some t)

end Sys2Proof.Machine
end

