-- ==== Sys2Proof/Machine/Arithmetic.lean ====
section
/-! DEFINITION. Add, subtract, multiply, divide, square root, minimum, maximum (42_arithmetic.md). -/

namespace Sys2Proof.Machine

/-- `fadd.s`: single-precision addition (R110). -/
def execFaddS (rd rs1 rs2 : FReg) (rm : RmField) (s : State) : Result :=
  withRounding (.faddS rd rs1 rs2 rm) rm s fun m =>
    finishS s rd (addF binary32 s.envS m (s.readS rs1) (s.readS rs2))

/-- `fsub.s`: single-precision subtraction, `f[rs1] - f[rs2]` (R111). -/
def execFsubS (rd rs1 rs2 : FReg) (rm : RmField) (s : State) : Result :=
  withRounding (.fsubS rd rs1 rs2 rm) rm s fun m =>
    finishS s rd (subF binary32 s.envS m (s.readS rs1) (s.readS rs2))

/-- `fmul.s`: single-precision multiplication (R112). -/
def execFmulS (rd rs1 rs2 : FReg) (rm : RmField) (s : State) : Result :=
  withRounding (.fmulS rd rs1 rs2 rm) rm s fun m =>
    finishS s rd (mulF binary32 s.envS m (s.readS rs1) (s.readS rs2))

/-- `fdiv.s`: single-precision division, `f[rs1] / f[rs2]` (R113). -/
def execFdivS (rd rs1 rs2 : FReg) (rm : RmField) (s : State) : Result :=
  withRounding (.fdivS rd rs1 rs2 rm) rm s fun m =>
    finishS s rd (divF binary32 s.envS m (s.readS rs1) (s.readS rs2))

/-- `fsqrt.s`: single-precision square root (R114). -/
def execFsqrtS (rd rs1 : FReg) (rm : RmField) (s : State) : Result :=
  withRounding (.fsqrtS rd rs1 rm) rm s fun m =>
    finishS s rd (sqrtF binary32 s.envS m (s.readS rs1))

/-- `fmin.s`: single-precision minimum (R115). -/
def execFminS (rd rs1 rs2 : FReg) (s : State) : Result :=
  finishS s rd (minMaxF binary32 s.envS false (s.readS rs1) (s.readS rs2))

/-- `fmax.s`: single-precision maximum (R116). -/
def execFmaxS (rd rs1 rs2 : FReg) (s : State) : Result :=
  finishS s rd (minMaxF binary32 s.envS true (s.readS rs1) (s.readS rs2))

/-- `fadd.d`: double-precision addition (R117). -/
def execFaddD (rd rs1 rs2 : FReg) (rm : RmField) (s : State) : Result :=
  withRounding (.faddD rd rs1 rs2 rm) rm s fun m =>
    finishD s rd (addF binary64 s.envD m (s.readF rs1) (s.readF rs2))

/-- `fsub.d`: double-precision subtraction, `f[rs1] - f[rs2]` (R118). -/
def execFsubD (rd rs1 rs2 : FReg) (rm : RmField) (s : State) : Result :=
  withRounding (.fsubD rd rs1 rs2 rm) rm s fun m =>
    finishD s rd (subF binary64 s.envD m (s.readF rs1) (s.readF rs2))

/-- `fmul.d`: double-precision multiplication (R119). -/
def execFmulD (rd rs1 rs2 : FReg) (rm : RmField) (s : State) : Result :=
  withRounding (.fmulD rd rs1 rs2 rm) rm s fun m =>
    finishD s rd (mulF binary64 s.envD m (s.readF rs1) (s.readF rs2))

/-- `fdiv.d`: double-precision division, `f[rs1] / f[rs2]` (R120). -/
def execFdivD (rd rs1 rs2 : FReg) (rm : RmField) (s : State) : Result :=
  withRounding (.fdivD rd rs1 rs2 rm) rm s fun m =>
    finishD s rd (divF binary64 s.envD m (s.readF rs1) (s.readF rs2))

/-- `fsqrt.d`: double-precision square root (R121). -/
def execFsqrtD (rd rs1 : FReg) (rm : RmField) (s : State) : Result :=
  withRounding (.fsqrtD rd rs1 rm) rm s fun m =>
    finishD s rd (sqrtF binary64 s.envD m (s.readF rs1))

/-- `fmin.d`: double-precision minimum (R122). -/
def execFminD (rd rs1 rs2 : FReg) (s : State) : Result :=
  finishD s rd (minMaxF binary64 s.envD false (s.readF rs1) (s.readF rs2))

/-- `fmax.d`: double-precision maximum (R123). -/
def execFmaxD (rd rs1 rs2 : FReg) (s : State) : Result :=
  finishD s rd (minMaxF binary64 s.envD true (s.readF rs1) (s.readF rs2))

end Sys2Proof.Machine
end

