-- ==== Sys2Proof/Machine/Base.lean ====
section
/-! DEFINITION. Integer computation and control transfer of the borrowed subset (47_base_subset.md). -/

namespace Sys2Proof.Machine

/-- Take the branch when `taken`, else go on; a branch not taken never raises (47_base_subset.md R168). -/
def branchIf (s : State) (off : BitVec 13) (taken : Bool) : Result :=
  if taken then transfer s (s.branchTarget off) s else .next s.advance

/-- `lui`: load upper immediate (R169). -/
def execLui (rd : XReg) (imm : BitVec 20) (s : State) : Result :=
  writeXNext s rd (imm ++ (0 : BitVec 12))

/-- `addi`: add immediate (R170). -/
def execAddi (rd rs1 : XReg) (imm : BitVec 12) (s : State) : Result :=
  writeXNext s rd (s.readX rs1 + sext12 imm)

/-- `add`: add (R171). -/
def execAdd (rd rs1 rs2 : XReg) (s : State) : Result :=
  writeXNext s rd (s.readX rs1 + s.readX rs2)

/-- `sub`: subtract (R172). -/
def execSub (rd rs1 rs2 : XReg) (s : State) : Result :=
  writeXNext s rd (s.readX rs1 - s.readX rs2)

/-- `slli`: shift left logical immediate (R173). -/
def execSlli (rd rs1 : XReg) (shamt : BitVec 5) (s : State) : Result :=
  writeXNext s rd (s.readX rs1 <<< shamt.toNat)

/-- `beq`: branch if equal (R176). -/
def execBeq (rs1 rs2 : XReg) (off : BitVec 13) (s : State) : Result :=
  branchIf s off (decide (s.readX rs1 = s.readX rs2))

/-- `bne`: branch if not equal (R177). -/
def execBne (rs1 rs2 : XReg) (off : BitVec 13) (s : State) : Result :=
  branchIf s off (decide (s.readX rs1 ≠ s.readX rs2))

/-- `blt`: branch if less than, signed (R178). -/
def execBlt (rs1 rs2 : XReg) (off : BitVec 13) (s : State) : Result :=
  branchIf s off (decide ((s.readX rs1).toInt < (s.readX rs2).toInt))

/-- `jal`: jump and link (R179). -/
def execJal (rd : XReg) (off : BitVec 21) (s : State) : Result :=
  transfer s (s.jumpTarget off) (s.writeX rd (s.pc + 4))

/-- `jalr`: jump and link register; the base is read before the link is written (R180). -/
def execJalr (rd rs1 : XReg) (imm : BitVec 12) (s : State) : Result :=
  transfer s (s.jalrTarget rs1 imm) (s.writeX rd (s.pc + 4))

end Sys2Proof.Machine
end

