-- ==== Sys2Proof/Machine/Compare.lean ====
section
/-! DEFINITION. Comparisons into an x register (44_compare.md). -/

namespace Sys2Proof.Machine

/-- Write 0 or 1 and accrue (44_compare.md, introduction). -/
def compareInto (s : State) (rd : XReg) (r : Bool × FlagSet) : Result := finishX s rd (wordOfBool r.1, r.2)

/-- `feq.s`: equality, quiet (R132). -/
def execFeqS (rd : XReg) (rs1 rs2 : FReg) (s : State) : Result :=
  compareInto s rd (eqF binary32 (s.readS rs1) (s.readS rs2))

/-- `flt.s`: less than, signaling (R133). -/
def execFltS (rd : XReg) (rs1 rs2 : FReg) (s : State) : Result :=
  compareInto s rd (ltF binary32 (s.readS rs1) (s.readS rs2))

/-- `fle.s`: less than or equal, signaling (R134). -/
def execFleS (rd : XReg) (rs1 rs2 : FReg) (s : State) : Result :=
  compareInto s rd (leF binary32 (s.readS rs1) (s.readS rs2))

/-- `feq.d`: equality, quiet (R135). -/
def execFeqD (rd : XReg) (rs1 rs2 : FReg) (s : State) : Result :=
  compareInto s rd (eqF binary64 (s.readF rs1) (s.readF rs2))

/-- `flt.d`: less than, signaling (R136). -/
def execFltD (rd : XReg) (rs1 rs2 : FReg) (s : State) : Result :=
  compareInto s rd (ltF binary64 (s.readF rs1) (s.readF rs2))

/-- `fle.d`: less than or equal, signaling (R137). -/
def execFleD (rd : XReg) (rs1 rs2 : FReg) (s : State) : Result :=
  compareInto s rd (leF binary64 (s.readF rs1) (s.readF rs2))

end Sys2Proof.Machine
end

