-- ==== Sys2Proof/Machine/Convert.lean ====
section
/-! DEFINITION. Conversions and moves between the register files (45_convert_move.md). -/

namespace Sys2Proof.Machine

/-- `fcvt.w.s`: single to signed integer (R139). -/
def execFcvtWS (rd : XReg) (rs1 : FReg) (rm : RmField) (s : State) : Result :=
  withRounding (.fcvtWS rd rs1 rm) rm s fun m =>
    finishX s rd (toIntF binary32 m true (s.readS rs1))

/-- `fcvt.wu.s`: single to unsigned integer (R140). -/
def execFcvtWuS (rd : XReg) (rs1 : FReg) (rm : RmField) (s : State) : Result :=
  withRounding (.fcvtWuS rd rs1 rm) rm s fun m =>
    finishX s rd (toIntF binary32 m false (s.readS rs1))

/-- `fcvt.w.d`: double to signed integer (R143). -/
def execFcvtWD (rd : XReg) (rs1 : FReg) (rm : RmField) (s : State) : Result :=
  withRounding (.fcvtWD rd rs1 rm) rm s fun m =>
    finishX s rd (toIntF binary64 m true (s.readF rs1))

/-- `fcvt.wu.d`: double to unsigned integer (R144). -/
def execFcvtWuD (rd : XReg) (rs1 : FReg) (rm : RmField) (s : State) : Result :=
  withRounding (.fcvtWuD rd rs1 rm) rm s fun m =>
    finishX s rd (toIntF binary64 m false (s.readF rs1))

/-- `fcvt.s.w`: signed integer to single (R141). -/
def execFcvtSW (rd : FReg) (rs1 : XReg) (rm : RmField) (s : State) : Result :=
  withRounding (.fcvtSW rd rs1 rm) rm s fun m =>
    finishS s rd (fromIntF binary32 s.launch.params.tininess m true (s.readX rs1))

/-- `fcvt.s.wu`: unsigned integer to single (R142). -/
def execFcvtSWu (rd : FReg) (rs1 : XReg) (rm : RmField) (s : State) : Result :=
  withRounding (.fcvtSWu rd rs1 rm) rm s fun m =>
    finishS s rd (fromIntF binary32 s.launch.params.tininess m false (s.readX rs1))

/-- `fcvt.d.w`: signed integer to double; exact, no flag, the mode checked all the same (R145). -/
def execFcvtDW (rd : FReg) (rs1 : XReg) (rm : RmField) (s : State) : Result :=
  withRounding (.fcvtDW rd rs1 rm) rm s fun m =>
    writeDNext s rd (fromIntF binary64 s.launch.params.tininess m true (s.readX rs1)).1

/-- `fcvt.d.wu`: unsigned integer to double; exact, no flag, the mode checked all the same (R146). -/
def execFcvtDWu (rd : FReg) (rs1 : XReg) (rm : RmField) (s : State) : Result :=
  withRounding (.fcvtDWu rd rs1 rm) rm s fun m =>
    writeDNext s rd (fromIntF binary64 s.launch.params.tininess m false (s.readX rs1)).1

/-- `fcvt.s.d`: double to single (R147). -/
def execFcvtSD (rd rs1 : FReg) (rm : RmField) (s : State) : Result :=
  withRounding (.fcvtSD rd rs1 rm) rm s fun m =>
    finishS s rd (convertF binary64 binary32 s.envS m (s.readF rs1))

/-- `fcvt.d.s`: single to double, exact, the mode checked all the same (R148). -/
def execFcvtDS (rd rs1 : FReg) (rm : RmField) (s : State) : Result :=
  withRounding (.fcvtDS rd rs1 rm) rm s fun m =>
    finishD s rd (convertF binary32 binary64 s.envD m (s.readS rs1))

/-- `fmv.x.w`: the low 32 bits, unconditionally (R149). -/
def execFmvXW (rd : XReg) (rs1 : FReg) (s : State) : Result :=
  writeXNext s rd (lowHalf (s.readF rs1))

/-- `fmv.w.x`: raw bits into a single (R150). -/
def execFmvWX (rd : FReg) (rs1 : XReg) (s : State) : Result :=
  writeSNext s rd (s.readX rs1)

end Sys2Proof.Machine
end

