-- ==== Sys2Proof/Machine/Fused.lean ====
section
/-! DEFINITION. Fused multiply-add (43_fused.md). -/

namespace Sys2Proof.Machine

/-- Whether `fnmadd` negates the addend: `-(a * b) - c` under `isa` (43_fused.md introduction; D15; log 17). -/
def fnmaddNegatesAddend (s : State) : Bool := decide (s.launch.params.fnmPairing = .isa)

/-- Whether `fnmsub` negates the addend: `-(a * b) + c` under `isa` (43_fused.md introduction; D15; log 17). -/
def fnmsubNegatesAddend (s : State) : Bool := decide (s.launch.params.fnmPairing = .literal)

/-- `fmadd.s`: `(a * b) + c`, rounded once (R124). -/
def execFmaddS (rd rs1 rs2 rs3 : FReg) (rm : RmField) (s : State) : Result :=
  withRounding (.fmaddS rd rs1 rs2 rs3 rm) rm s fun m =>
    finishS s rd (fmaF binary32 s.envS m (s.readS rs1) (s.readS rs2) (s.readS rs3) false false)

/-- `fmsub.s`: `(a * b) - c`, rounded once (R125). -/
def execFmsubS (rd rs1 rs2 rs3 : FReg) (rm : RmField) (s : State) : Result :=
  withRounding (.fmsubS rd rs1 rs2 rs3 rm) rm s fun m =>
    finishS s rd (fmaF binary32 s.envS m (s.readS rs1) (s.readS rs2) (s.readS rs3) false true)

/-- `fnmsub.s`: `-(a * b) + c`, rounded once (`FNM_PAIRING = isa`) (R126). -/
def execFnmsubS (rd rs1 rs2 rs3 : FReg) (rm : RmField) (s : State) : Result :=
  withRounding (.fnmsubS rd rs1 rs2 rs3 rm) rm s fun m =>
    finishS s rd (fmaF binary32 s.envS m (s.readS rs1) (s.readS rs2) (s.readS rs3) true (fnmsubNegatesAddend s))

/-- `fnmadd.s`: `-(a * b) - c`, rounded once (`FNM_PAIRING = isa`) (R127). -/
def execFnmaddS (rd rs1 rs2 rs3 : FReg) (rm : RmField) (s : State) : Result :=
  withRounding (.fnmaddS rd rs1 rs2 rs3 rm) rm s fun m =>
    finishS s rd (fmaF binary32 s.envS m (s.readS rs1) (s.readS rs2) (s.readS rs3) true (fnmaddNegatesAddend s))

/-- `fmadd.d`: `(a * b) + c`, rounded once (R128). -/
def execFmaddD (rd rs1 rs2 rs3 : FReg) (rm : RmField) (s : State) : Result :=
  withRounding (.fmaddD rd rs1 rs2 rs3 rm) rm s fun m =>
    finishD s rd (fmaF binary64 s.envD m (s.readF rs1) (s.readF rs2) (s.readF rs3) false false)

/-- `fmsub.d`: `(a * b) - c`, rounded once (R129). -/
def execFmsubD (rd rs1 rs2 rs3 : FReg) (rm : RmField) (s : State) : Result :=
  withRounding (.fmsubD rd rs1 rs2 rs3 rm) rm s fun m =>
    finishD s rd (fmaF binary64 s.envD m (s.readF rs1) (s.readF rs2) (s.readF rs3) false true)

/-- `fnmsub.d`: `-(a * b) + c`, rounded once (`FNM_PAIRING = isa`) (R130). -/
def execFnmsubD (rd rs1 rs2 rs3 : FReg) (rm : RmField) (s : State) : Result :=
  withRounding (.fnmsubD rd rs1 rs2 rs3 rm) rm s fun m =>
    finishD s rd (fmaF binary64 s.envD m (s.readF rs1) (s.readF rs2) (s.readF rs3) true (fnmsubNegatesAddend s))

/-- `fnmadd.d`: `-(a * b) - c`, rounded once (`FNM_PAIRING = isa`) (R131). -/
def execFnmaddD (rd rs1 rs2 rs3 : FReg) (rm : RmField) (s : State) : Result :=
  withRounding (.fnmaddD rd rs1 rs2 rs3 rm) rm s fun m =>
    finishD s rd (fmaF binary64 s.envD m (s.readF rs1) (s.readF rs2) (s.readF rs3) true (fnmaddNegatesAddend s))

end Sys2Proof.Machine
end

