-- ==== Sys2Proof/Machine/LoadStore.lean ====
section
/-! DEFINITION. Loads and stores (41_load_store.md; `lw`, `sw` of 47_base_subset.md). -/

namespace Sys2Proof.Machine

/-- `flw`: load a single, bits unchanged (R106). -/
def execFlw (rd : FReg) (rs1 : XReg) (imm : BitVec 12) (s : State) : Result :=
  withLoad s (s.effectiveAddress rs1 imm) 4 (writeSNext s rd (Memory.readWord s.mem (s.effectiveAddress rs1 imm).toNat))

/-- `fsw`: store the low 32 bits, unconditionally (R108). -/
def execFsw (rs2 : FReg) (rs1 : XReg) (imm : BitVec 12) (s : State) : Result :=
  withStore s (s.effectiveAddress rs1 imm) 4
    (storeNext s (Memory.writeWord s.mem (s.effectiveAddress rs1 imm).toNat (lowHalf (s.readF rs2))))

/-- `fld`: load a double, bits unchanged (R107). -/
def execFld (rd : FReg) (rs1 : XReg) (imm : BitVec 12) (s : State) : Result :=
  withLoad s (s.effectiveAddress rs1 imm) 8 (writeDNext s rd (Memory.readDouble s.mem (s.effectiveAddress rs1 imm).toNat))

/-- `fsd`: store all 64 bits (R109). -/
def execFsd (rs2 : FReg) (rs1 : XReg) (imm : BitVec 12) (s : State) : Result :=
  withStore s (s.effectiveAddress rs1 imm) 8
    (storeNext s (Memory.writeDouble s.mem (s.effectiveAddress rs1 imm).toNat (s.readF rs2)))

/-- `lw`: load a word (R174). -/
def execLw (rd rs1 : XReg) (imm : BitVec 12) (s : State) : Result :=
  withLoad s (s.effectiveAddress rs1 imm) 4 (writeXNext s rd (Memory.readWord s.mem (s.effectiveAddress rs1 imm).toNat))

/-- `sw`: store a word (R175). -/
def execSw (rs2 rs1 : XReg) (imm : BitVec 12) (s : State) : Result :=
  withStore s (s.effectiveAddress rs1 imm) 4
    (storeNext s (Memory.writeWord s.mem (s.effectiveAddress rs1 imm).toNat (s.readX rs2)))

end Sys2Proof.Machine
end

