-- ==== Sys2Proof/Machine/SignClassify.lean ====
section
/-! DEFINITION. Sign injection and classification (46_sign_classify.md). -/

namespace Sys2Proof.Machine

/-- `fsgnj.s`: the sign of `rs2`, the rest of `rs1` (R152). -/
def execFsgnjS (rd rs1 rs2 : FReg) (s : State) : Result :=
  writeSNext s rd (withSign binary32 (signBit binary32 (s.readS rs2)) (s.readS rs1))

/-- `fsgnjn.s`: the opposite of the sign of `rs2` (R153). -/
def execFsgnjnS (rd rs1 rs2 : FReg) (s : State) : Result :=
  writeSNext s rd (withSign binary32 (!signBit binary32 (s.readS rs2)) (s.readS rs1))

/-- `fsgnjx.s`: the exclusive-or of the signs (R154). -/
def execFsgnjxS (rd rs1 rs2 : FReg) (s : State) : Result :=
  writeSNext s rd (withSign binary32 (signBit binary32 (s.readS rs1) ^^ signBit binary32 (s.readS rs2)) (s.readS rs1))

/-- `fclass.s`: the 10-bit class mask (R158). -/
def execFclassS (rd : XReg) (rs1 : FReg) (s : State) : Result :=
  writeXNext s rd ((classMask binary32 (s.readS rs1)).setWidth 32)

/-- `fsgnj.d`: the sign of `rs2`, the rest of `rs1` (R155). -/
def execFsgnjD (rd rs1 rs2 : FReg) (s : State) : Result :=
  writeDNext s rd (withSign binary64 (signBit binary64 (s.readF rs2)) (s.readF rs1))

/-- `fsgnjn.d`: the opposite of the sign of `rs2` (R156). -/
def execFsgnjnD (rd rs1 rs2 : FReg) (s : State) : Result :=
  writeDNext s rd (withSign binary64 (!signBit binary64 (s.readF rs2)) (s.readF rs1))

/-- `fsgnjx.d`: the exclusive-or of the signs (R157). -/
def execFsgnjxD (rd rs1 rs2 : FReg) (s : State) : Result :=
  writeDNext s rd (withSign binary64 (signBit binary64 (s.readF rs1) ^^ signBit binary64 (s.readF rs2)) (s.readF rs1))

/-- `fclass.d`: the 10-bit class mask (R159). -/
def execFclassD (rd : XReg) (rs1 : FReg) (s : State) : Result :=
  writeXNext s rd ((classMask binary64 (s.readF rs1)).setWidth 32)

end Sys2Proof.Machine
end

