-- ==== Sys2Proof/Machine/System.lean ====
section
/-! DEFINITION. CSR access and the environment instructions (47_base_subset.md R181 to R189). -/

namespace Sys2Proof.Machine

/-- Continue with the CSR the number names; a number the spec does not describe is refused (47_base_subset.md R189;
log 19). -/
def withCsr (n : BitVec 12) (k : Csr → Result) : Result :=
  match csrOfNumber n with
  | some c => k c
  | none => .refused (.csrNotDescribed n)

/-- Read the old value, write the new one if there is one, put the old value in `rd` (47_base_subset.md R181 to
R186). -/
def csrNext (s : State) (rd : XReg) (c : Csr) (new : Option Word) : Result :=
  match new with
  | some v => .next ((s.writeCsr c v).writeX rd (s.readCsr c)).advance
  | none => .next (s.writeX rd (s.readCsr c)).advance

/-- `csrrw`: read and write a CSR (R181). -/
def execCsrrw (rd : XReg) (csr : BitVec 12) (rs1 : XReg) (s : State) : Result :=
  withCsr csr fun c => csrNext s rd c (some (s.readX rs1))

/-- `csrrs`: read and set bits; no write when `rs1` is `x0` (R182). -/
def execCsrrs (rd : XReg) (csr : BitVec 12) (rs1 : XReg) (s : State) : Result :=
  withCsr csr fun c => csrNext s rd c (if rs1 = 0 then none else some (s.readCsr c ||| s.readX rs1))

/-- `csrrc`: read and clear bits; no write when `rs1` is `x0` (R183). -/
def execCsrrc (rd : XReg) (csr : BitVec 12) (rs1 : XReg) (s : State) : Result :=
  withCsr csr fun c => csrNext s rd c (if rs1 = 0 then none else some (s.readCsr c &&& ~~~s.readX rs1))

/-- `csrrwi`: read and write with an immediate (R184). -/
def execCsrrwi (rd : XReg) (csr : BitVec 12) (uimm : BitVec 5) (s : State) : Result :=
  withCsr csr fun c => csrNext s rd c (some (uimm.setWidth 32))

/-- `csrrsi`: read and set bits with an immediate; no write when it is 0 (R185). -/
def execCsrrsi (rd : XReg) (csr : BitVec 12) (uimm : BitVec 5) (s : State) : Result :=
  withCsr csr fun c =>
    csrNext s rd c (if uimm = 0 then none else some (s.readCsr c ||| uimm.setWidth 32))

/-- `csrrci`: read and clear bits with an immediate; no write when it is 0 (R186). -/
def execCsrrci (rd : XReg) (csr : BitVec 12) (uimm : BitVec 5) (s : State) : Result :=
  withCsr csr fun c =>
    csrNext s rd c (if uimm = 0 then none else some (s.readCsr c &&& ~~~uimm.setWidth 32))

/-- `ecall`: environment call, always the trap, which records no value (R187). -/
def execEcall (s : State) : Result :=
  raise s .environmentCall none

/-- `ebreak`: breakpoint, always the trap, which records its own address (R188). -/
def execEbreak (s : State) : Result :=
  raise s .breakpoint (some s.pc)

end Sys2Proof.Machine
end

