-- ==== Sys2Proof/Machine/Run.lean ====
section
/-! DEFINITION. What one step of the hart does (00_scope.md R11; 70_reset_and_hazards.md R216), and the load of a
one-instruction text. -/

namespace Sys2Proof.Machine

/-- Run a fetched word: its instruction, the illegal-instruction trap, or a refusal (30_encoding.md R65, R66, R68). -/
def runWord (w : Word) (s : State) : Result :=
  match decodeWord w with
  | .instr i => exec i s
  | .illegal v => raise s .illegalInstruction (some v)
  | .notDescribed v => .refused (.wordNotDescribed v)
  | .truncated => .refused (.wordNotDescribed w)

/-- Fetch and run. A fetch that fails raises, recording `pc` (20_memory.md R38; 60_exceptions.md R198, R202). -/
def fetchAndRun (s : State) : Result :=
  match s.fetch with
  | .ok w => runWord w s
  | .error c => raise s c (some s.pc)

/-- One step. A trapped run has ended (60_exceptions.md R204); the halt test comes before the fetch
(70_reset_and_hazards.md R216). -/
def runStep (s : State) : Result :=
  if s.trap.isSome then .fault .trapped
  else if s.pc = s.launch.haltPc then .fault .halted
  else fetchAndRun s

/-- The address at or below `a` where an instruction can stand (10_state.md R24). -/
def alignDown (a : Word) : Word := a &&& 0xfffffffc

/-- The launch with the word as program text at `a`, and `halt_pc` moved off `a` if it stood there. -/
def Launch.withText (l : Launch) (a w : Word) : Launch :=
  { l with text := placeTextWord l.text a.toNat w, haltPc := if l.haltPc = a then a + 4 else l.haltPc }

/-- The state with a word placed as program text where the next step fetches: at `pc`, rounded down to a multiple of 4,
in a run that has not ended (log 4). -/
def State.loadWord (s : State) (w : Word) : State :=
  { s with pc := alignDown s.pc, trap := none, launch := s.launch.withText (alignDown s.pc) w }

end Sys2Proof.Machine
end

