-- ==== Sys2Proof/Machine/Step.lean ====
section
/-! DEFINITION. The step function and the placing of one instruction, by the fixed names of the host. -/

namespace Sys2Proof.Machine

/-- One step of the hart: `runStep`. -/
def step (s : State) : Host.Outcome State Fault Refusal := runStep s

/-- The state in which the very next step fetches and runs the instruction in the low `nbits` bits of `w`: `loadWord`
of the instruction word (log 4). -/
def State.withFetchWord (s : State) (nbits w : Nat) : State := s.loadWord (tableWord nbits w)

end Sys2Proof.Machine
end

