-- ==== Sys2Proof/Safety.lean ====
section
/-! DEFINITION. The terms statements are made in: the machine's invariant, the end of a run, the conditions on a state
under which an instruction completes, and what an instruction writes and leaves alone. -/

namespace Sys2Proof

/-! ## What a row names (30_encoding.md R52 to R59, R67; 10_state.md R22) -/

/-- The rounding-mode field of the rows that have one (40_numerics.md R81). -/
def Instr.roundingField? : Instr → Option RmField
  | .flw _ _ _ => none
  | .fsw _ _ _ => none
  | .fmaddS _ _ _ _ rm => some rm
  | .fmsubS _ _ _ _ rm => some rm
  | .fnmsubS _ _ _ _ rm => some rm
  | .fnmaddS _ _ _ _ rm => some rm
  | .faddS _ _ _ rm => some rm
  | .fsubS _ _ _ rm => some rm
  | .fmulS _ _ _ rm => some rm
  | .fdivS _ _ _ rm => some rm
  | .fsqrtS _ _ rm => some rm
  | .fsgnjS _ _ _ => none
  | .fsgnjnS _ _ _ => none
  | .fsgnjxS _ _ _ => none
  | .fminS _ _ _ => none
  | .fmaxS _ _ _ => none
  | .fcvtWS _ _ rm => some rm
  | .fcvtWuS _ _ rm => some rm
  | .fmvXW _ _ => none
  | .feqS _ _ _ => none
  | .fltS _ _ _ => none
  | .fleS _ _ _ => none
  | .fclassS _ _ => none
  | .fcvtSW _ _ rm => some rm
  | .fcvtSWu _ _ rm => some rm
  | .fmvWX _ _ => none
  | .fld _ _ _ => none
  | .fsd _ _ _ => none
  | .fmaddD _ _ _ _ rm => some rm
  | .fmsubD _ _ _ _ rm => some rm
  | .fnmsubD _ _ _ _ rm => some rm
  | .fnmaddD _ _ _ _ rm => some rm
  | .faddD _ _ _ rm => some rm
  | .fsubD _ _ _ rm => some rm
  | .fmulD _ _ _ rm => some rm
  | .fdivD _ _ _ rm => some rm
  | .fsqrtD _ _ rm => some rm
  | .fsgnjD _ _ _ => none
  | .fsgnjnD _ _ _ => none
  | .fsgnjxD _ _ _ => none
  | .fminD _ _ _ => none
  | .fmaxD _ _ _ => none
  | .fcvtSD _ _ rm => some rm
  | .fcvtDS _ _ rm => some rm
  | .feqD _ _ _ => none
  | .fltD _ _ _ => none
  | .fleD _ _ _ => none
  | .fclassD _ _ => none
  | .fcvtWD _ _ rm => some rm
  | .fcvtWuD _ _ rm => some rm
  | .fcvtDW _ _ rm => some rm
  | .fcvtDWu _ _ rm => some rm
  | .lui _ _ => none
  | .addi _ _ _ => none
  | .add _ _ _ => none
  | .sub _ _ _ => none
  | .slli _ _ _ => none
  | .lw _ _ _ => none
  | .sw _ _ _ => none
  | .beq _ _ _ => none
  | .bne _ _ _ => none
  | .blt _ _ _ => none
  | .jal _ _ => none
  | .jalr _ _ _ => none
  | .csrrw _ _ _ => none
  | .csrrs _ _ _ => none
  | .csrrc _ _ _ => none
  | .csrrwi _ _ _ => none
  | .csrrsi _ _ _ => none
  | .csrrci _ _ _ => none
  | .ecall => none
  | .ebreak => none

/-- The x register a row names as destination (10_state.md R22). -/
def Instr.destX? : Instr → Option XReg
  | .flw _ _ _ => none
  | .fsw _ _ _ => none
  | .fmaddS _ _ _ _ _ => none
  | .fmsubS _ _ _ _ _ => none
  | .fnmsubS _ _ _ _ _ => none
  | .fnmaddS _ _ _ _ _ => none
  | .faddS _ _ _ _ => none
  | .fsubS _ _ _ _ => none
  | .fmulS _ _ _ _ => none
  | .fdivS _ _ _ _ => none
  | .fsqrtS _ _ _ => none
  | .fsgnjS _ _ _ => none
  | .fsgnjnS _ _ _ => none
  | .fsgnjxS _ _ _ => none
  | .fminS _ _ _ => none
  | .fmaxS _ _ _ => none
  | .fcvtWS rd _ _ => some rd
  | .fcvtWuS rd _ _ => some rd
  | .fmvXW rd _ => some rd
  | .feqS rd _ _ => some rd
  | .fltS rd _ _ => some rd
  | .fleS rd _ _ => some rd
  | .fclassS rd _ => some rd
  | .fcvtSW _ _ _ => none
  | .fcvtSWu _ _ _ => none
  | .fmvWX _ _ => none
  | .fld _ _ _ => none
  | .fsd _ _ _ => none
  | .fmaddD _ _ _ _ _ => none
  | .fmsubD _ _ _ _ _ => none
  | .fnmsubD _ _ _ _ _ => none
  | .fnmaddD _ _ _ _ _ => none
  | .faddD _ _ _ _ => none
  | .fsubD _ _ _ _ => none
  | .fmulD _ _ _ _ => none
  | .fdivD _ _ _ _ => none
  | .fsqrtD _ _ _ => none
  | .fsgnjD _ _ _ => none
  | .fsgnjnD _ _ _ => none
  | .fsgnjxD _ _ _ => none
  | .fminD _ _ _ => none
  | .fmaxD _ _ _ => none
  | .fcvtSD _ _ _ => none
  | .fcvtDS _ _ _ => none
  | .feqD rd _ _ => some rd
  | .fltD rd _ _ => some rd
  | .fleD rd _ _ => some rd
  | .fclassD rd _ => some rd
  | .fcvtWD rd _ _ => some rd
  | .fcvtWuD rd _ _ => some rd
  | .fcvtDW _ _ _ => none
  | .fcvtDWu _ _ _ => none
  | .lui rd _ => some rd
  | .addi rd _ _ => some rd
  | .add rd _ _ => some rd
  | .sub rd _ _ => some rd
  | .slli rd _ _ => some rd
  | .lw rd _ _ => some rd
  | .sw _ _ _ => none
  | .beq _ _ _ => none
  | .bne _ _ _ => none
  | .blt _ _ _ => none
  | .jal rd _ => some rd
  | .jalr rd _ _ => some rd
  | .csrrw rd _ _ => some rd
  | .csrrs rd _ _ => some rd
  | .csrrc rd _ _ => some rd
  | .csrrwi rd _ _ => some rd
  | .csrrsi rd _ _ => some rd
  | .csrrci rd _ _ => some rd
  | .ecall => none
  | .ebreak => none

/-- The f register a row names as destination (10_state.md R22). -/
def Instr.destF? : Instr → Option FReg
  | .flw rd _ _ => some rd
  | .fsw _ _ _ => none
  | .fmaddS rd _ _ _ _ => some rd
  | .fmsubS rd _ _ _ _ => some rd
  | .fnmsubS rd _ _ _ _ => some rd
  | .fnmaddS rd _ _ _ _ => some rd
  | .faddS rd _ _ _ => some rd
  | .fsubS rd _ _ _ => some rd
  | .fmulS rd _ _ _ => some rd
  | .fdivS rd _ _ _ => some rd
  | .fsqrtS rd _ _ => some rd
  | .fsgnjS rd _ _ => some rd
  | .fsgnjnS rd _ _ => some rd
  | .fsgnjxS rd _ _ => some rd
  | .fminS rd _ _ => some rd
  | .fmaxS rd _ _ => some rd
  | .fcvtWS _ _ _ => none
  | .fcvtWuS _ _ _ => none
  | .fmvXW _ _ => none
  | .feqS _ _ _ => none
  | .fltS _ _ _ => none
  | .fleS _ _ _ => none
  | .fclassS _ _ => none
  | .fcvtSW rd _ _ => some rd
  | .fcvtSWu rd _ _ => some rd
  | .fmvWX rd _ => some rd
  | .fld rd _ _ => some rd
  | .fsd _ _ _ => none
  | .fmaddD rd _ _ _ _ => some rd
  | .fmsubD rd _ _ _ _ => some rd
  | .fnmsubD rd _ _ _ _ => some rd
  | .fnmaddD rd _ _ _ _ => some rd
  | .faddD rd _ _ _ => some rd
  | .fsubD rd _ _ _ => some rd
  | .fmulD rd _ _ _ => some rd
  | .fdivD rd _ _ _ => some rd
  | .fsqrtD rd _ _ => some rd
  | .fsgnjD rd _ _ => some rd
  | .fsgnjnD rd _ _ => some rd
  | .fsgnjxD rd _ _ => some rd
  | .fminD rd _ _ => some rd
  | .fmaxD rd _ _ => some rd
  | .fcvtSD rd _ _ => some rd
  | .fcvtDS rd _ _ => some rd
  | .feqD _ _ _ => none
  | .fltD _ _ _ => none
  | .fleD _ _ _ => none
  | .fclassD _ _ => none
  | .fcvtWD _ _ _ => none
  | .fcvtWuD _ _ _ => none
  | .fcvtDW rd _ _ => some rd
  | .fcvtDWu rd _ _ => some rd
  | .lui _ _ => none
  | .addi _ _ _ => none
  | .add _ _ _ => none
  | .sub _ _ _ => none
  | .slli _ _ _ => none
  | .lw _ _ _ => none
  | .sw _ _ _ => none
  | .beq _ _ _ => none
  | .bne _ _ _ => none
  | .blt _ _ _ => none
  | .jal _ _ => none
  | .jalr _ _ _ => none
  | .csrrw _ _ _ => none
  | .csrrs _ _ _ => none
  | .csrrc _ _ _ => none
  | .csrrwi _ _ _ => none
  | .csrrsi _ _ _ => none
  | .csrrci _ _ _ => none
  | .ecall => none
  | .ebreak => none

/-- The six CSR instructions (47_base_subset.md R181 to R186). -/
def Instr.isCsr : Instr → Bool
  | .flw _ _ _ => false
  | .fsw _ _ _ => false
  | .fmaddS _ _ _ _ _ => false
  | .fmsubS _ _ _ _ _ => false
  | .fnmsubS _ _ _ _ _ => false
  | .fnmaddS _ _ _ _ _ => false
  | .faddS _ _ _ _ => false
  | .fsubS _ _ _ _ => false
  | .fmulS _ _ _ _ => false
  | .fdivS _ _ _ _ => false
  | .fsqrtS _ _ _ => false
  | .fsgnjS _ _ _ => false
  | .fsgnjnS _ _ _ => false
  | .fsgnjxS _ _ _ => false
  | .fminS _ _ _ => false
  | .fmaxS _ _ _ => false
  | .fcvtWS _ _ _ => false
  | .fcvtWuS _ _ _ => false
  | .fmvXW _ _ => false
  | .feqS _ _ _ => false
  | .fltS _ _ _ => false
  | .fleS _ _ _ => false
  | .fclassS _ _ => false
  | .fcvtSW _ _ _ => false
  | .fcvtSWu _ _ _ => false
  | .fmvWX _ _ => false
  | .fld _ _ _ => false
  | .fsd _ _ _ => false
  | .fmaddD _ _ _ _ _ => false
  | .fmsubD _ _ _ _ _ => false
  | .fnmsubD _ _ _ _ _ => false
  | .fnmaddD _ _ _ _ _ => false
  | .faddD _ _ _ _ => false
  | .fsubD _ _ _ _ => false
  | .fmulD _ _ _ _ => false
  | .fdivD _ _ _ _ => false
  | .fsqrtD _ _ _ => false
  | .fsgnjD _ _ _ => false
  | .fsgnjnD _ _ _ => false
  | .fsgnjxD _ _ _ => false
  | .fminD _ _ _ => false
  | .fmaxD _ _ _ => false
  | .fcvtSD _ _ _ => false
  | .fcvtDS _ _ _ => false
  | .feqD _ _ _ => false
  | .fltD _ _ _ => false
  | .fleD _ _ _ => false
  | .fclassD _ _ => false
  | .fcvtWD _ _ _ => false
  | .fcvtWuD _ _ _ => false
  | .fcvtDW _ _ _ => false
  | .fcvtDWu _ _ _ => false
  | .lui _ _ => false
  | .addi _ _ _ => false
  | .add _ _ _ => false
  | .sub _ _ _ => false
  | .slli _ _ _ => false
  | .lw _ _ _ => false
  | .sw _ _ _ => false
  | .beq _ _ _ => false
  | .bne _ _ _ => false
  | .blt _ _ _ => false
  | .jal _ _ => false
  | .jalr _ _ _ => false
  | .csrrw _ _ _ => true
  | .csrrs _ _ _ => true
  | .csrrc _ _ _ => true
  | .csrrwi _ _ _ => true
  | .csrrsi _ _ _ => true
  | .csrrci _ _ _ => true
  | .ecall => false
  | .ebreak => false

/-- A store's base register, offset and width in bytes. -/
structure StoreSlot where
  base : XReg
  offset : BitVec 12
  bytes : Nat
  deriving DecidableEq, Repr

/-- Where a row stores, if it does (41_load_store.md R108, R109; 47_base_subset.md R175). -/
def Instr.store? : Instr → Option StoreSlot
  | .flw _ _ _ => none
  | .fsw _ rs1 imm => some ⟨rs1, imm, 4⟩
  | .fmaddS _ _ _ _ _ => none
  | .fmsubS _ _ _ _ _ => none
  | .fnmsubS _ _ _ _ _ => none
  | .fnmaddS _ _ _ _ _ => none
  | .faddS _ _ _ _ => none
  | .fsubS _ _ _ _ => none
  | .fmulS _ _ _ _ => none
  | .fdivS _ _ _ _ => none
  | .fsqrtS _ _ _ => none
  | .fsgnjS _ _ _ => none
  | .fsgnjnS _ _ _ => none
  | .fsgnjxS _ _ _ => none
  | .fminS _ _ _ => none
  | .fmaxS _ _ _ => none
  | .fcvtWS _ _ _ => none
  | .fcvtWuS _ _ _ => none
  | .fmvXW _ _ => none
  | .feqS _ _ _ => none
  | .fltS _ _ _ => none
  | .fleS _ _ _ => none
  | .fclassS _ _ => none
  | .fcvtSW _ _ _ => none
  | .fcvtSWu _ _ _ => none
  | .fmvWX _ _ => none
  | .fld _ _ _ => none
  | .fsd _ rs1 imm => some ⟨rs1, imm, 8⟩
  | .fmaddD _ _ _ _ _ => none
  | .fmsubD _ _ _ _ _ => none
  | .fnmsubD _ _ _ _ _ => none
  | .fnmaddD _ _ _ _ _ => none
  | .faddD _ _ _ _ => none
  | .fsubD _ _ _ _ => none
  | .fmulD _ _ _ _ => none
  | .fdivD _ _ _ _ => none
  | .fsqrtD _ _ _ => none
  | .fsgnjD _ _ _ => none
  | .fsgnjnD _ _ _ => none
  | .fsgnjxD _ _ _ => none
  | .fminD _ _ _ => none
  | .fmaxD _ _ _ => none
  | .fcvtSD _ _ _ => none
  | .fcvtDS _ _ _ => none
  | .feqD _ _ _ => none
  | .fltD _ _ _ => none
  | .fleD _ _ _ => none
  | .fclassD _ _ => none
  | .fcvtWD _ _ _ => none
  | .fcvtWuD _ _ _ => none
  | .fcvtDW _ _ _ => none
  | .fcvtDWu _ _ _ => none
  | .lui _ _ => none
  | .addi _ _ _ => none
  | .add _ _ _ => none
  | .sub _ _ _ => none
  | .slli _ _ _ => none
  | .lw _ _ _ => none
  | .sw _ rs1 imm => some ⟨rs1, imm, 4⟩
  | .beq _ _ _ => none
  | .bne _ _ _ => none
  | .blt _ _ _ => none
  | .jal _ _ => none
  | .jalr _ _ _ => none
  | .csrrw _ _ _ => none
  | .csrrs _ _ _ => none
  | .csrrc _ _ _ => none
  | .csrrwi _ _ _ => none
  | .csrrsi _ _ _ => none
  | .csrrci _ _ _ => none
  | .ecall => none
  | .ebreak => none

end Sys2Proof

namespace Sys2Proof.Machine

/-! ## The invariant -/

/-- What every step keeps: memory in its canonical form, the hardwired bits of `fcsr` and the hardwired `x[0]` at 0
(10_state.md R23, R26), `pc` a multiple of 4 (10_state.md R24), and what a launch promises of its constants: text at
addresses of the 32-bit space, `halt_pc` a multiple of 4 (70_reset_and_hazards.md R213). -/
structure State.Inv (s : State) : Prop where
  mem : Memory.wf s.mem = true
  fcsr : s.fcsr.extractLsb' 8 24 = 0
  zero : s.x[0] = 0
  pc : s.pc.toNat % 4 = 0
  text : ∀ c ∈ s.launch.text, c.1 < 2 ^ 32
  halt : s.launch.haltPc.toNat % 4 = 0

/-! ## The launch -/

/-- The premises of a launch, from which a run of the spec's model starts (70_reset_and_hazards.md R213), as a predicate
on the first state: `entry_pc` is its `pc`, and the registers and data bytes hold any values. Premises (d) and (e), an
enabled unit and one hart without devices or interrupts, hold of every state, which has no field for anything else. -/
structure State.IsLaunch (s : State) : Prop where
  /-- (a): `MEM.text` and `MEM.data` are sets of byte addresses, and disjoint (20_memory.md R43). -/
  text : ∀ c ∈ s.launch.text, c.1 < 2 ^ 32
  disjoint : ∀ a, s.launch.inData a = true → textByte? s.launch.text a = none
  /-- (b): `entry_pc` is a multiple of 4 and the four bytes at it are in `MEM.text`. -/
  entry : s.pc.toNat % 4 = 0
  entryText : ∀ k, k < 4 → (textByte? s.launch.text (s.pc.toNat + k)).isSome = true
  /-- (c): `halt_pc` is a multiple of 4. -/
  halt : s.launch.haltPc.toNat % 4 = 0
  /-- (f): `x[0] = 0` and `fcsr[31:8] = 0`. -/
  zero : s.x[0] = 0
  fcsr : s.fcsr.extractLsb' 8 24 = 0
  /-- The model's form of memory. -/
  mem : Memory.wf s.mem = true
  /-- A launch has not trapped (60_exceptions.md R204). -/
  fresh : s.trap = none

/-! ## The end of a run, and safe runs -/

/-- The run has trapped (60_exceptions.md R204). -/
def State.hasTrapped (s : State) : Bool := s.trap.isSome

/-- The run has halted: `pc = halt_pc` before a fetch (70_reset_and_hazards.md R216). -/
def State.hasHalted (s : State) : Bool := s.trap.isNone && decide (s.pc = s.launch.haltPc)

/-- The run goes on: the next step fetches. -/
def State.running (s : State) : Prop := s.trap = none ∧ s.pc ≠ s.launch.haltPc

/-- A safe run of at most `n` steps: it never meets a word or a CSR the spec gives no meaning. -/
def staysDescribed : Nat → State → Bool
  | 0, _ => true
  | n + 1, s =>
    match step s with
    | .next t => staysDescribed n t
    | .fault _ => true
    | .refused _ => false

/-! ## Conditions on the state -/

/-- `RM(rm)` gives `m` (40_numerics.md R80). -/
def State.roundsWith (s : State) (rm : RmField) (m : RoundingMode) : Prop :=
  rm = .static m ∨ (rm = .dyn ∧ s.frm = m.bits)

/-- `RM(rm)` raises (40_numerics.md R80, R81). -/
def State.refusesRounding (s : State) (rm : RmField) : Prop :=
  rm = .reserved101 ∨ rm = .reserved110 ∨ (rm = .dyn ∧ 5 ≤ s.frm.toNat)

/-- The `n`-byte access at `ea` may be performed: aligned, unless misaligned accesses are performed too, and every byte
in `MEM.data` (20_memory.md R41, R44). -/
def State.accessAllowed (s : State) (ea : Word) (n : Nat) : Prop :=
  (ea.toNat % n = 0 ∨ s.launch.params.misaligned = .emulate) ∧ ∀ k, k < n → s.launch.inData (ea.toNat + k) = true

/-- The `n`-byte access at `ea` is refused for its alignment (20_memory.md R41). -/
def State.accessMisaligned (s : State) (ea : Word) (n : Nat) : Prop :=
  s.launch.params.misaligned = .trap ∧ ea.toNat % n ≠ 0

/-- The `n`-byte access at `ea` passes the alignment test and some byte is not in `MEM.data` (20_memory.md R44;
60_exceptions.md R202). -/
def State.accessAbsent (s : State) (ea : Word) (n : Nat) : Prop :=
  (ea.toNat % n = 0 ∨ s.launch.params.misaligned = .emulate) ∧ ∃ k, k < n ∧ s.launch.inData (ea.toNat + k) = false

/-! ## What a step writes and what it leaves, said through the reads -/

/-- Every x register reads as before. -/
def State.sameX (s t : State) : Prop := ∀ r, t.readX r = s.readX r

/-- Every f register reads as before. -/
def State.sameF (s t : State) : Prop := ∀ r, t.readF r = s.readF r

/-- Every byte of data memory reads as before. -/
def State.sameMem (s t : State) : Prop := ∀ a, Memory.read t.mem a = Memory.read s.mem a

/-- `x[rd]` reads as `v`, `x[0]` excepted; every other x register reads as before (10_state.md R23). -/
def State.onlyX (s t : State) (rd : XReg) (v : Word) : Prop :=
  ∀ r, t.readX r = if r = rd ∧ r ≠ 0 then v else s.readX r

/-- `f[rd]` reads as `v`; every other f register reads as before (10_state.md R16, R21). -/
def State.onlyF (s t : State) (rd : FReg) (v : DWord) : Prop := ∀ r, t.readF r = if r = rd then v else s.readF r

/-- The low half of `f[rd]` is `v`, and the upper half all ones under `BOX_WRITE = ones` (10_state.md R20); every other
f register reads as before. -/
def State.onlySingle (s t : State) (rd : FReg) (v : Word) : Prop :=
  lowHalf (t.readF rd) = v ∧ (s.launch.params.boxWrite = .ones → highHalf (t.readF rd) = 0xffffffff) ∧
    ∀ r, r ≠ rd → t.readF r = s.readF r

/-- The flags `fl` are accrued, and the rest of `fcsr` is as before (10_state.md R29). -/
def State.accrued (s t : State) (fl : FlagSet) : Prop :=
  t.fflags = s.fflags ||| fl ∧ t.frm = s.frm ∧ t.fcsr.extractLsb' 8 24 = s.fcsr.extractLsb' 8 24

/-- The launch is as before and no trap is recorded that was not. -/
def State.goesOn (s t : State) : Prop := t.launch = s.launch ∧ t.trap = s.trap

/-- What a CSR write leaves in the fields of `fcsr` (10_state.md R30, R31); no write leaves them all. -/
def State.csrWritten (s t : State) (c : Csr) (new : Option Word) : Prop :=
  t.fcsr.extractLsb' 8 24 = s.fcsr.extractLsb' 8 24 ∧
    match new with
    | none => t.fflags = s.fflags ∧ t.frm = s.frm
    | some v =>
      match c with
      | .fflags => t.fflags = v.extractLsb' 0 5 ∧ t.frm = s.frm
      | .frm => t.fflags = s.fflags ∧ t.frm = v.extractLsb' 0 3
      | .fcsr => t.fflags = v.extractLsb' 0 5 ∧ t.frm = v.extractLsb' 5 3

/-- An instruction that completes with `x[rd] <- v` and `accrue(fl)`, and changes nothing else but `pc`. -/
structure State.DoneX (s t : State) (rd : XReg) (v : Word) (fl : FlagSet) : Prop where
  x : s.onlyX t rd v
  f : s.sameF t
  flags : s.accrued t fl
  mem : s.sameMem t
  pc : t.pc = s.pc + 4
  on : s.goesOn t

/-- An instruction that completes with `f[rd] <-S v` and `accrue(fl)`, and changes nothing else but `pc`. -/
structure State.DoneS (s t : State) (rd : FReg) (v : Word) (fl : FlagSet) : Prop where
  x : s.sameX t
  f : s.onlySingle t rd v
  flags : s.accrued t fl
  mem : s.sameMem t
  pc : t.pc = s.pc + 4
  on : s.goesOn t

/-- An instruction that completes with `f[rd] <- v` and `accrue(fl)`, and changes nothing else but `pc`. -/
structure State.DoneD (s t : State) (rd : FReg) (v : DWord) (fl : FlagSet) : Prop where
  x : s.sameX t
  f : s.onlyF t rd v
  flags : s.accrued t fl
  mem : s.sameMem t
  pc : t.pc = s.pc + 4
  on : s.goesOn t

/-- A store that completes: byte `k` of `v` at `ea + k`, and nothing else changed but `pc` (20_memory.md R37). -/
structure State.DoneStore {w : Nat} (s t : State) (ea : Word) (n : Nat) (v : BitVec w) : Prop where
  x : s.sameX t
  f : s.sameF t
  fcsr : t.fcsr = s.fcsr
  stored : ∀ k, k < n → Memory.read t.mem (ea.toNat + k) = v.extractLsb' (8 * k) 8
  kept : ∀ a, a < ea.toNat ∨ ea.toNat + n ≤ a → Memory.read t.mem a = Memory.read s.mem a
  pc : t.pc = s.pc + 4
  on : s.goesOn t

/-- A control transfer that completes: `pc` at `target`, `x[rd] <- link` where there is a link, nothing else changed. -/
structure State.DoneJump (s t : State) (target : Word) (link : Option (XReg × Word)) : Prop where
  x : match link with
    | some l => s.onlyX t l.1 l.2
    | none => s.sameX t
  f : s.sameF t
  fcsr : t.fcsr = s.fcsr
  mem : s.sameMem t
  pc : t.pc = target
  on : s.goesOn t

/-- A CSR instruction that completes: `x[rd]` gets the old value, the CSR the new one if there is one, and nothing else
changes but `pc`. -/
structure State.DoneCsr (s t : State) (rd : XReg) (c : Csr) (new : Option Word) : Prop where
  x : s.onlyX t rd (s.readCsr c)
  f : s.sameF t
  csr : s.csrWritten t c new
  mem : s.sameMem t
  pc : t.pc = s.pc + 4
  on : s.goesOn t

/-- A trap: the record is made at this `pc`, and nothing else changes (60_exceptions.md R204). -/
structure State.Traps (s t : State) (c : Cause) (tval : Option Word) : Prop where
  record : t.trap = some ⟨c, tval, s.pc⟩
  x : s.sameX t
  f : s.sameF t
  fcsr : t.fcsr = s.fcsr
  mem : s.sameMem t
  pc : t.pc = s.pc
  launch : t.launch = s.launch

/-! ## Exact values, for statements about rounding (40_numerics.md R75, R79, R82) -/

/-- The two formats, each with its width (40_numerics.md R74). -/
def isStandard (f : Format) (w : Nat) : Prop := (f = binary32 ∧ w = 32) ∨ (f = binary64 ∧ w = 64)

/-- A zero, subnormal or normal pattern. -/
def isFinite {w : Nat} (f : Format) (a : BitVec w) : Bool := !isNaN f a && !isInf f a

/-- `r ≤ q`, exactly. -/
def BinNum.le (r q : BinNum) : Bool := !q.lt r

/-- Two exact numbers have one value. -/
def BinNum.sameValue (r q : BinNum) : Prop := r.beq q = true

/-- The magnitude is a positive real. -/
def Magnitude.positive : Magnitude → Bool
  | .ratio num den _ => decide (0 < num) && decide (0 < den)
  | .root num _ => decide (0 < num)

/-- Two exact numbers in the order in which `|q|` and the magnitude stand: cross-multiplied for a ratio, squared for a
root. -/
def Magnitude.against (a : Magnitude) (q : BinNum) : BinNum × BinNum :=
  match a with
  | .ratio num den exp => (⟨(q.num.natAbs * den : Nat), q.exp⟩, ⟨num, exp⟩)
  | .root num exp => (⟨(q.num.natAbs * q.num.natAbs : Nat), 2 * q.exp⟩, ⟨num, 2 * exp⟩)

/-- `q ≤ r` for the real `r` of sign `sg` and positive magnitude `a`. -/
def leReal (q : BinNum) (sg : Bool) (a : Magnitude) : Bool :=
  if sg then decide (q.num < 0) && (a.against q).2.le (a.against q).1
  else decide (q.num ≤ 0) || (a.against q).1.le (a.against q).2

/-- `r ≤ q` for the real `r` of sign `sg` and positive magnitude `a`. -/
def realLe (sg : Bool) (a : Magnitude) (q : BinNum) : Bool :=
  if sg then decide (0 ≤ q.num) || (a.against q).1.le (a.against q).2
  else decide (0 < q.num) && (a.against q).2.le (a.against q).1

/-- Half of an exact number. -/
def BinNum.half (r : BinNum) : BinNum := ⟨r.num, r.exp - 1⟩

/-- `(2^(p+1) - 1) * 2^(emax-p)`: half a step above `MAXF`, where rounding to nearest starts to overflow
(40_numerics.md R82, R83). -/
def Format.overflowMidpoint (f : Format) : BinNum := ⟨2 ^ (f.precision + 1) - 1, f.emax - f.precision⟩

/-- `tiny` as a condition on the exact real (40_numerics.md R84). Before rounding: `a < 2^emin`. After rounding with
unbounded exponent the neighbour of `2^emin` below it is `(2^p - 1) * 2^(emin-p)`; rounding toward zero stays below
`2^emin` from anywhere below it, rounding away from zero only from that neighbour or below, rounding to nearest from
below the midpoint of the two, whose tie goes to `2^emin`. -/
def tinyReal (f : Format) (tin : Tininess) (m : RoundingMode) (sg : Bool) (a : Magnitude) : Bool :=
  match tin with
  | .before => !leReal ⟨1, f.emin⟩ false a
  | .after =>
    match m, sg with
    | .rtz, _ => !leReal ⟨1, f.emin⟩ false a
    | .rdn, false => !leReal ⟨1, f.emin⟩ false a
    | .rup, true => !leReal ⟨1, f.emin⟩ false a
    | .rdn, true => realLe false a ⟨2 ^ f.precision - 1, f.emin - f.precision⟩
    | .rup, false => realLe false a ⟨2 ^ f.precision - 1, f.emin - f.precision⟩
    | .rne, _ => !leReal ⟨2 ^ (f.precision + 1) - 1, f.emin - f.precision - 1⟩ false a
    | .rmm, _ => !leReal ⟨2 ^ (f.precision + 1) - 1, f.emin - f.precision - 1⟩ false a

/-- `n = round_to_integer(m, v)`: the integer beside `v` that the mode picks (40_numerics.md R79, R96). -/
def roundsToInteger (m : RoundingMode) (v : BinNum) (n : Int) : Prop :=
  match m with
  | .rdn => BinNum.le ⟨n, 0⟩ v = true ∧ v.lt ⟨n + 1, 0⟩ = true
  | .rup => BinNum.lt ⟨n - 1, 0⟩ v = true ∧ v.le ⟨n, 0⟩ = true
  | .rtz =>
    if v.num < 0 then BinNum.lt ⟨n - 1, 0⟩ v = true ∧ v.le ⟨n, 0⟩ = true
    else BinNum.le ⟨n, 0⟩ v = true ∧ v.lt ⟨n + 1, 0⟩ = true
  | .rne =>
    BinNum.le ⟨2 * n - 1, -1⟩ v = true ∧ v.le ⟨2 * n + 1, -1⟩ = true ∧
      (v.sameValue ⟨2 * n - 1, -1⟩ ∨ v.sameValue ⟨2 * n + 1, -1⟩ → n % 2 = 0)
  | .rmm =>
    BinNum.le ⟨2 * n - 1, -1⟩ v = true ∧ v.le ⟨2 * n + 1, -1⟩ = true ∧
      (v.sameValue ⟨2 * n - 1, -1⟩ → 0 < v.num) ∧ (v.sameValue ⟨2 * n + 1, -1⟩ → v.num < 0)

/-- A pattern's place in the order −∞, negative finite, zeros, positive finite, +∞: its magnitude bits as a number, with
its sign (40_numerics.md R95). -/
def orderKey {w : Nat} (f : Format) (a : BitVec w) : Int :=
  if signBit f a then -((a.toNat % f.signWeight : Nat) : Int) else ((a.toNat % f.signWeight : Nat) : Int)

/-- The pattern of the value 1 (40_numerics.md R104). -/
def oneOf {w : Nat} (f : Format) : BitVec w := packBits f false (2 ^ (f.expBits - 1) * 2 ^ f.fracBits - 2 ^ f.fracBits)

end Sys2Proof.Machine
end

