-- ==== Sys2Proof/Certificates/Slice0/Obligations.lean ====
section
/-! DEFINITION. The statements for the provers. -/

section

open Sys2Proof Sys2Proof.Machine

/-- A word that matches a row of the opcode table decodes by that row, so no two rows overlap. Rests on: 30_encoding.md section on the opcode map, R65. -/
def Obligations.RowsSelectThemselves : Prop :=
  ∀ r ∈ opcodeRows, ∀ w : Word, r.hits w = true → decodeWord w = .instr (r.build w)

/-- Decoding the encoding of a well-formed instruction gives the instruction back. Rests on: 30_encoding.md R53 to R58, R65, R67; 47_base_subset.md R168. -/
def Obligations.DecodeOfEncode : Prop :=
  ∀ i : Instr, i.wf = true →
    decodeWord (encode i) = .instr i ∧ ∀ rest, decodeBytes (bytesOfWord (encode i) ++ rest) = .instr i

/-- A word that decodes is the encoding of the well-formed instruction it decodes to. Rests on: 30_encoding.md R53 to R58, R65, R67; 47_base_subset.md R168. -/
def Obligations.EncodeOfDecode : Prop :=
  ∀ (w : Word) (i : Instr), decodeWord w = .instr i → i.wf = true ∧ encode i = w

/-- Words the spec writes out decode to the instructions it names. Rests on: 41_load_store.md R106, R108; 95_test_vectors.md S-1, S-2, S-8; 95_test_vectors.md P1 (0x0a0570c3, 0xfe5594e3); 95_test_vectors.md P3 (0xc0113853); 45_convert_move.md R149; 47_base_subset.md R170, R179; 47_base_subset.md R181 and 95_test_vectors.md V-CSR-4; 47_base_subset.md R188 and 95_test_vectors.md V-TRAP-5. -/
def Obligations.KnownWordsDecode : Prop :=
  decodeWord 0xffc12087 = .instr (.flw 1 2 0xffc) ∧ decodeWord 0xfef42027 = .instr (.fsw 15 8 0xfe0) ∧
  decodeWord 0x00209053 = .instr (.faddS 0 1 2 (.static .rtz)) ∧
  decodeWord 0x0a0570c3 = .instr (.fmaddD 1 10 0 1 .dyn) ∧ decodeWord 0xa02092d3 = .instr (.fltS 5 1 2) ∧
  decodeWord 0xc0113853 = .instr (.fcvtWuS 16 2 (.static .rup)) ∧ decodeWord 0xe0050553 = .instr (.fmvXW 10 10) ∧
  decodeWord 0x22b5a553 = .instr (.fsgnjxD 10 11 11) ∧ decodeWord 0xfff50513 = .instr (.addi 10 10 0xfff) ∧
  decodeWord 0xfe5594e3 = .instr (.bne 11 5 0x1fe8) ∧ decodeWord 0xff9ff06f = .instr (.jal 0 0x1ffff8) ∧
  decodeWord 0x00359573 = .instr (.csrrw 10 0x003 11) ∧ decodeWord 0x00100073 = .instr .ebreak

/-- A word under a floating-point opcode that matches no row raises IllegalInstruction with the word. Stated: R66. -/
def Obligations.UnmatchedFloatingPointWordTraps : Prop :=
  ∀ (s : State) (w : Word), s.running → s.fetch = .ok w → opcodeField w ∈ fpOpcodes →
    (∀ r ∈ opcodeRows, r.hits w = false) →
    ∃ t, step s = .next t ∧ s.Traps t .illegalInstruction (some w)

/-- A word under another opcode executes if a row matches it and is refused otherwise. Stated: R68. -/
def Obligations.WordsUnderOtherOpcodes : Prop :=
  ∀ (s : State) (w : Word), s.running → s.fetch = .ok w → opcodeField w ∉ fpOpcodes →
    (∀ r ∈ opcodeRows, r.hits w = true → step s = exec (r.build w) s) ∧
    ((∀ r ∈ opcodeRows, r.hits w = false) → step s = .refused (.wordNotDescribed w))

/-- Fetch assembles the four text bytes at pc little-endian, and traps on a misaligned or absent word. Stated: R38. -/
def Obligations.FetchReadsFourTextBytes : Prop :=
  ∀ s : State,
    (s.pc.toNat % 4 ≠ 0 → s.fetch = .error .instructionAddressMisaligned) ∧
    (s.pc.toNat % 4 = 0 → (∃ k, k < 4 ∧ textByte? s.launch.text (s.pc.toNat + k) = none) →
      s.fetch = .error .instructionAccessFault) ∧
    (s.pc.toNat % 4 = 0 → ∀ b : Nat → Byte, (∀ k, k < 4 → textByte? s.launch.text (s.pc.toNat + k) = some (b k)) →
      ∃ w, s.fetch = .ok w ∧ ∀ k, k < 4 → ∀ j, j < 8 → w.getLsbD (8 * k + j) = (b k).getLsbD j) ∧
    ∀ c, s.running → s.fetch = .error c → ∃ t, step s = .next t ∧ s.Traps t c (some s.pc)

/-- When the bytes at pc decode to an instruction, the step is the execution of that instruction. Rests on: 00_scope.md R11; 70_reset_and_hazards.md R216. -/
def Obligations.StepRunsTheDecodedInstruction : Prop :=
  ∀ (s : State) (b0 b1 b2 b3 : Byte) (i : Instr), s.running → s.pc.toNat % 4 = 0 →
    textByte? s.launch.text s.pc.toNat = some b0 → textByte? s.launch.text (s.pc.toNat + 1) = some b1 →
    textByte? s.launch.text (s.pc.toNat + 2) = some b2 → textByte? s.launch.text (s.pc.toNat + 3) = some b3 →
    decodeBytes [b0, b1, b2, b3] = .instr i → step s = exec i s

/-- A word placed with withFetchWord is what the next step fetches, and makes a launch (the model's choice: log 4). Rests on: 20_memory.md R38, R49; 70_reset_and_hazards.md R213. -/
def Obligations.PlacedWordIsFetchedNext : Prop :=
  ∀ (s : State) (w : Word), (s.withFetchWord 32 w.toNat).running ∧ (s.withFetchWord 32 w.toNat).fetch = .ok w ∧
    s.sameX (s.withFetchWord 32 w.toNat) ∧ s.sameF (s.withFetchWord 32 w.toNat) ∧
    (s.withFetchWord 32 w.toNat).fcsr = s.fcsr ∧ s.sameMem (s.withFetchWord 32 w.toNat) ∧
    (s.Inv → (s.withFetchWord 32 w.toNat).IsLaunch)

/-- A trapped run and a run at halt_pc take no step (the form of the stop is the model's: log 1, log 2). Rests on: 60_exceptions.md R204; 70_reset_and_hazards.md R216. -/
def Obligations.EndedRunsStop : Prop :=
  ∀ s : State, (s.trap ≠ none → step s = .fault .trapped) ∧
    (s.trap = none → s.pc = s.launch.haltPc → step s = .fault .halted)

/-- Every step keeps: memory in canonical form, x[0] = 0, fcsr[31:8] = 0, pc and halt_pc multiples of 4, text below 2^32. Rests on: 10_state.md R23, R24, R26, R31; 20_memory.md R44; 70_reset_and_hazards.md R213. -/
def Obligations.EveryStepKeepsTheInvariant : Prop :=
  ∀ s t : State, s.Inv → step s = .next t → t.Inv

/-- The state after reset is a launch, and every launch meets the invariant. The addresses and open values of reset are the model's (log 4 to 10). Rests on: 10_state.md R34; 70_reset_and_hazards.md R213. -/
def Obligations.ResetMeetsTheInvariant : Prop :=
  State.reset.IsLaunch ∧ State.reset.Inv ∧ State.reset.readX 0 = 0 ∧ State.reset.fcsr.extractLsb' 8 24 = 0 ∧
    State.reset.trap = none ∧ ∀ s : State, s.IsLaunch → s.Inv

/-- No step changes the program text, the extent of data memory, halt_pc or a parameter. Rests on: 20_memory.md R43, R49; 70_reset_and_hazards.md R213. -/
def Obligations.LaunchNeverChanges : Prop :=
  ∀ s t : State, step s = .next t → t.launch = s.launch

/-- A step that traps changes nothing but the trap record, which names the pc, and ends the run. Stated: R204. -/
def Obligations.TrapKeepsTheStateBefore : Prop :=
  ∀ s t : State, step s = .next t → t.trap ≠ none →
    s.trap = none ∧ (∃ c v, s.Traps t c v) ∧ step t = .fault .trapped

/-- No instruction but a CSR instruction clears a flag or changes frm or the reserved bits of fcsr. Rests on: 10_state.md R28, R29, R31. -/
def Obligations.FlagsOnlyAccumulate : Prop :=
  ∀ (i : Instr) (s t : State), i.isCsr = false → exec i s = .next t →
    s.fflags &&& t.fflags = s.fflags ∧ t.fcsr.extractLsb' 5 27 = s.fcsr.extractLsb' 5 27

/-- Every instruction leaves every register but its destination, and every byte it does not store to, as it was. Rests on: 10_state.md R22; 00_scope.md R10, R11; 20_memory.md R37. -/
def Obligations.FrameOfEveryInstruction : Prop :=
  ∀ (i : Instr) (s t : State), exec i s = .next t →
    (∀ r, i.destX? ≠ some r → t.readX r = s.readX r) ∧ (∀ r, i.destF? ≠ some r → t.readF r = s.readF r) ∧
    (i.store? = none → s.sameMem t) ∧
    (∀ b off n, i.store? = some ⟨b, off, n⟩ →
      ∀ a, a < (s.effectiveAddress b off).toNat ∨ (s.effectiveAddress b off).toNat + n ≤ a →
        Memory.read t.mem a = Memory.read s.mem a) ∧
    t.launch = s.launch ∧ (t.trap = s.trap ∨ ∃ c v, t.trap = some ⟨c, v, s.pc⟩)

/-- Each row with an rm field raises IllegalInstruction when the mode is invalid and writes nothing. The model's own clauses: the rows are the 28 of the table, where R81 and R192 say 34 (log 26, DEDUCED), and the recorded word is the encoding of the decoded instruction (log 20, DEDUCED). Rests on: 40_numerics.md R80, R81; 60_exceptions.md R192. -/
def Obligations.InvalidRoundingModeTraps : Prop :=
  ∀ (i : Instr) (s : State) (rm : RmField), i.roundingField? = some rm → s.refusesRounding rm →
    ∃ t, exec i s = .next t ∧ s.Traps t .illegalInstruction (some (encode i))

/-- An instruction whose mode is not dynamic does the same whatever frm holds. Rests on: 40_numerics.md R80; 70_reset_and_hazards.md R219. -/
def Obligations.OnlyDynamicRoundingReadsFrm : Prop :=
  ∀ (i : Instr) (s t : State) (v : Word), i.isCsr = false → i.roundingField? ≠ some .dyn → exec i s = .next t →
    exec i (s.writeCsr .frm v) = .next (t.writeCsr .frm v)

/-- What an instruction writes and raises does not depend on the flags already set. Rests on: 40_numerics.md R101. -/
def Obligations.ResultsDoNotReadTheFlags : Prop :=
  ∀ (i : Instr) (s t : State) (v : Word), i.isCsr = false → exec i s = .next t →
    ∃ (u : State) (fl : FlagSet), exec i (s.writeCsr .fflags v) = .next u ∧ u.x = t.x ∧ u.f = t.f ∧ u.mem = t.mem ∧
      u.pc = t.pc ∧ u.trap = t.trap ∧ u.frm = t.frm ∧ t.fflags = s.fflags ||| fl ∧
      u.fflags = v.extractLsb' 0 5 ||| fl

/-- When no parameter is a draw, no instruction depends on the free values. Rests on: 70_reset_and_hazards.md R217; 00_scope.md R6. -/
def Obligations.DefaultsDrawNothing : Prop :=
  ∀ (i : Instr) (s t : State) (n : Nat), Params.draws s.launch.params = false → exec i s = .next t →
    exec i { s with draws := n } = .next { t with draws := n }

/-- lui, addi, add, sub and slli complete with the result their rules give. Rests on: 47_base_subset.md, Integer computation: R169 to R173. -/
def Obligations.IntegerComputation : Prop :=
  (∀ (s : State) (rd : XReg) (imm : BitVec 20), ∃ t, exec (.lui rd imm) s = .next t ∧
      s.DoneX t rd (imm.setWidth 32 <<< 12) noFlags) ∧
  (∀ (s : State) (rd rs1 : XReg) (imm : BitVec 12), ∃ t, exec (.addi rd rs1 imm) s = .next t ∧
      s.DoneX t rd (s.readX rs1 + imm.signExtend 32) noFlags) ∧
  (∀ (s : State) (rd rs1 rs2 : XReg), ∃ t, exec (.add rd rs1 rs2) s = .next t ∧
      s.DoneX t rd (s.readX rs1 + s.readX rs2) noFlags) ∧
  (∀ (s : State) (rd rs1 rs2 : XReg), ∃ t, exec (.sub rd rs1 rs2) s = .next t ∧
      s.DoneX t rd (s.readX rs1 - s.readX rs2) noFlags) ∧
  (∀ (s : State) (rd rs1 : XReg) (shamt : BitVec 5), ∃ t, exec (.slli rd rs1 shamt) s = .next t ∧
      s.DoneX t rd (s.readX rs1 <<< shamt.toNat) noFlags)

/-- beq, bne and blt go to pc + offset when the condition holds, to pc + 4 when it does not. Rests on: 47_base_subset.md, Control transfer: R168, R176 to R178. -/
def Obligations.Branches : Prop :=
  (∀ (s : State) (rs1 rs2 : XReg) (off : BitVec 13),
      (s.readX rs1 = s.readX rs2 → (s.pc + off.signExtend 32).toNat % 4 = 0 →
        ∃ t, exec (.beq rs1 rs2 off) s = .next t ∧ s.DoneJump t (s.pc + off.signExtend 32) none) ∧
      (s.readX rs1 ≠ s.readX rs2 → ∃ t, exec (.beq rs1 rs2 off) s = .next t ∧ s.DoneJump t (s.pc + 4) none)) ∧
  (∀ (s : State) (rs1 rs2 : XReg) (off : BitVec 13),
      (s.readX rs1 ≠ s.readX rs2 → (s.pc + off.signExtend 32).toNat % 4 = 0 →
        ∃ t, exec (.bne rs1 rs2 off) s = .next t ∧ s.DoneJump t (s.pc + off.signExtend 32) none) ∧
      (s.readX rs1 = s.readX rs2 → ∃ t, exec (.bne rs1 rs2 off) s = .next t ∧ s.DoneJump t (s.pc + 4) none)) ∧
  (∀ (s : State) (rs1 rs2 : XReg) (off : BitVec 13),
      ((s.readX rs1).toInt < (s.readX rs2).toInt → (s.pc + off.signExtend 32).toNat % 4 = 0 →
        ∃ t, exec (.blt rs1 rs2 off) s = .next t ∧ s.DoneJump t (s.pc + off.signExtend 32) none) ∧
      ((s.readX rs2).toInt ≤ (s.readX rs1).toInt → ∃ t, exec (.blt rs1 rs2 off) s = .next t ∧ s.DoneJump t (s.pc + 4) none))

/-- jal and jalr write the link and go to the target when it is a multiple of 4. Rests on: 47_base_subset.md, Control transfer: R179, R180. -/
def Obligations.Jumps : Prop :=
  (∀ (s : State) (rd : XReg) (off : BitVec 21), (s.pc + off.signExtend 32).toNat % 4 = 0 →
      ∃ t, exec (.jal rd off) s = .next t ∧ s.DoneJump t (s.pc + off.signExtend 32) (some (rd, s.pc + 4))) ∧
  (∀ (s : State) (rd rs1 : XReg) (imm : BitVec 12),
      ((s.readX rs1 + imm.signExtend 32) &&& ~~~(1 : Word)).toNat % 4 = 0 →
      ∃ t, exec (.jalr rd rs1 imm) s = .next t ∧
        s.DoneJump t ((s.readX rs1 + imm.signExtend 32) &&& ~~~(1 : Word)) (some (rd, s.pc + 4)))

/-- A taken branch or a jump to a target that is no multiple of 4 traps on itself, and writes no link. Rests on: 60_exceptions.md R197; 47_base_subset.md R168. -/
def Obligations.MisalignedTargetsTrap : Prop :=
  (∀ (s : State) (rs1 rs2 : XReg) (off : BitVec 13), s.readX rs1 = s.readX rs2 → (s.pc + off.signExtend 32).toNat % 4 ≠ 0 →
      ∃ t, exec (.beq rs1 rs2 off) s = .next t ∧
        s.Traps t .instructionAddressMisaligned (some (s.pc + off.signExtend 32))) ∧
  (∀ (s : State) (rs1 rs2 : XReg) (off : BitVec 13), s.readX rs1 ≠ s.readX rs2 → (s.pc + off.signExtend 32).toNat % 4 ≠ 0 →
      ∃ t, exec (.bne rs1 rs2 off) s = .next t ∧
        s.Traps t .instructionAddressMisaligned (some (s.pc + off.signExtend 32))) ∧
  (∀ (s : State) (rs1 rs2 : XReg) (off : BitVec 13), (s.readX rs1).toInt < (s.readX rs2).toInt → (s.pc + off.signExtend 32).toNat % 4 ≠ 0 →
      ∃ t, exec (.blt rs1 rs2 off) s = .next t ∧
        s.Traps t .instructionAddressMisaligned (some (s.pc + off.signExtend 32))) ∧
  (∀ (s : State) (rd : XReg) (off : BitVec 21), (s.pc + off.signExtend 32).toNat % 4 ≠ 0 →
      ∃ t, exec (.jal rd off) s = .next t ∧
        s.Traps t .instructionAddressMisaligned (some (s.pc + off.signExtend 32))) ∧
  (∀ (s : State) (rd rs1 : XReg) (imm : BitVec 12),
      ((s.readX rs1 + imm.signExtend 32) &&& ~~~(1 : Word)).toNat % 4 ≠ 0 →
      ∃ t, exec (.jalr rd rs1 imm) s = .next t ∧
        s.Traps t .instructionAddressMisaligned (some ((s.readX rs1 + imm.signExtend 32) &&& ~~~(1 : Word))))

/-- flw, fld and lw, when the access is allowed, put the bytes at EA into rd unchanged. Rests on: 41_load_store.md R105 to R107; 47_base_subset.md R174; 20_memory.md R37, R41, R44. -/
def Obligations.LoadsComplete : Prop :=
  (∀ (s : State) (rd : FReg) (rs1 : XReg) (imm : BitVec 12), s.accessAllowed (s.readX rs1 + imm.signExtend 32) 4 →
      ∃ t, ∃ v : Word, exec (.flw rd rs1 imm) s = .next t ∧
        (∀ k, k < 4 → v.extractLsb' (8 * k) 8 = Memory.read s.mem ((s.readX rs1 + imm.signExtend 32).toNat + k)) ∧
        s.DoneS t rd v noFlags) ∧
  (∀ (s : State) (rd : FReg) (rs1 : XReg) (imm : BitVec 12), s.accessAllowed (s.readX rs1 + imm.signExtend 32) 8 →
      ∃ t, ∃ v : DWord, exec (.fld rd rs1 imm) s = .next t ∧
        (∀ k, k < 8 → v.extractLsb' (8 * k) 8 = Memory.read s.mem ((s.readX rs1 + imm.signExtend 32).toNat + k)) ∧
        s.DoneD t rd v noFlags) ∧
  (∀ (s : State) (rd : XReg) (rs1 : XReg) (imm : BitVec 12), s.accessAllowed (s.readX rs1 + imm.signExtend 32) 4 →
      ∃ t, ∃ v : Word, exec (.lw rd rs1 imm) s = .next t ∧
        (∀ k, k < 4 → v.extractLsb' (8 * k) 8 = Memory.read s.mem ((s.readX rs1 + imm.signExtend 32).toNat + k)) ∧
        s.DoneX t rd v noFlags)

/-- fsw, fsd and sw, when the access is allowed, store their bytes at EA and change no other byte. Rests on: 41_load_store.md R105, R108, R109; 47_base_subset.md R175; 20_memory.md R37, R41, R44. -/
def Obligations.StoresComplete : Prop :=
  (∀ (s : State) (rs2 : FReg) (rs1 : XReg) (imm : BitVec 12), s.accessAllowed (s.effectiveAddress rs1 imm) 4 →
      ∃ t, exec (.fsw rs2 rs1 imm) s = .next t ∧ s.DoneStore t (s.effectiveAddress rs1 imm) 4 ((s.readF rs2).extractLsb' 0 32)) ∧
  (∀ (s : State) (rs2 : FReg) (rs1 : XReg) (imm : BitVec 12), s.accessAllowed (s.effectiveAddress rs1 imm) 8 →
      ∃ t, exec (.fsd rs2 rs1 imm) s = .next t ∧ s.DoneStore t (s.effectiveAddress rs1 imm) 8 (s.readF rs2)) ∧
  (∀ (s : State) (rs2 : XReg) (rs1 : XReg) (imm : BitVec 12), s.accessAllowed (s.effectiveAddress rs1 imm) 4 →
      ∃ t, exec (.sw rs2 rs1 imm) s = .next t ∧ s.DoneStore t (s.effectiveAddress rs1 imm) 4 (s.readX rs2))

/-- A misaligned access traps as such, an aligned one outside MEM.data as an access fault; no byte or register is written. Rests on: 60_exceptions.md R193 to R196, R202; 20_memory.md R41, R43, R44, R49. -/
def Obligations.RefusedAccessesTrap : Prop :=
  (∀ (s : State) (r : FReg) (rs1 : XReg) (imm : BitVec 12),
      (s.accessMisaligned (s.effectiveAddress rs1 imm) 4 → ∃ t, exec (.flw r rs1 imm) s = .next t ∧
        s.Traps t .loadAddressMisaligned (some (s.effectiveAddress rs1 imm))) ∧
      (s.accessAbsent (s.effectiveAddress rs1 imm) 4 → ∃ t, exec (.flw r rs1 imm) s = .next t ∧
        s.Traps t .loadAccessFault (some (s.effectiveAddress rs1 imm)))) ∧
  (∀ (s : State) (r : FReg) (rs1 : XReg) (imm : BitVec 12),
      (s.accessMisaligned (s.effectiveAddress rs1 imm) 8 → ∃ t, exec (.fld r rs1 imm) s = .next t ∧
        s.Traps t .loadAddressMisaligned (some (s.effectiveAddress rs1 imm))) ∧
      (s.accessAbsent (s.effectiveAddress rs1 imm) 8 → ∃ t, exec (.fld r rs1 imm) s = .next t ∧
        s.Traps t .loadAccessFault (some (s.effectiveAddress rs1 imm)))) ∧
  (∀ (s : State) (r : XReg) (rs1 : XReg) (imm : BitVec 12),
      (s.accessMisaligned (s.effectiveAddress rs1 imm) 4 → ∃ t, exec (.lw r rs1 imm) s = .next t ∧
        s.Traps t .loadAddressMisaligned (some (s.effectiveAddress rs1 imm))) ∧
      (s.accessAbsent (s.effectiveAddress rs1 imm) 4 → ∃ t, exec (.lw r rs1 imm) s = .next t ∧
        s.Traps t .loadAccessFault (some (s.effectiveAddress rs1 imm)))) ∧
  (∀ (s : State) (r : FReg) (rs1 : XReg) (imm : BitVec 12),
      (s.accessMisaligned (s.effectiveAddress rs1 imm) 4 → ∃ t, exec (.fsw r rs1 imm) s = .next t ∧
        s.Traps t .storeAddressMisaligned (some (s.effectiveAddress rs1 imm))) ∧
      (s.accessAbsent (s.effectiveAddress rs1 imm) 4 → ∃ t, exec (.fsw r rs1 imm) s = .next t ∧
        s.Traps t .storeAccessFault (some (s.effectiveAddress rs1 imm)))) ∧
  (∀ (s : State) (r : FReg) (rs1 : XReg) (imm : BitVec 12),
      (s.accessMisaligned (s.effectiveAddress rs1 imm) 8 → ∃ t, exec (.fsd r rs1 imm) s = .next t ∧
        s.Traps t .storeAddressMisaligned (some (s.effectiveAddress rs1 imm))) ∧
      (s.accessAbsent (s.effectiveAddress rs1 imm) 8 → ∃ t, exec (.fsd r rs1 imm) s = .next t ∧
        s.Traps t .storeAccessFault (some (s.effectiveAddress rs1 imm)))) ∧
  (∀ (s : State) (r : XReg) (rs1 : XReg) (imm : BitVec 12),
      (s.accessMisaligned (s.effectiveAddress rs1 imm) 4 → ∃ t, exec (.sw r rs1 imm) s = .next t ∧
        s.Traps t .storeAddressMisaligned (some (s.effectiveAddress rs1 imm))) ∧
      (s.accessAbsent (s.effectiveAddress rs1 imm) 4 → ∃ t, exec (.sw r rs1 imm) s = .next t ∧
        s.Traps t .storeAccessFault (some (s.effectiveAddress rs1 imm)))) ∧
  (∀ (s : State) (a : Nat) (b : Byte), textByte? s.launch.text a = some b → s.launch.inData a = false)

/-- fadd, fsub, fmul, fdiv and fsqrt, .s and .d, complete with the primitive's value and accrue its flags. Rests on: 42_arithmetic.md R110 to R114, R117 to R121; 40_numerics.md R80, R88. -/
def Obligations.ArithmeticCompletes : Prop :=
  (∀ (s : State) (rd rs1 rs2 : FReg) (rm : RmField) (m : RoundingMode), s.roundsWith rm m →
      ∃ t, exec (.faddS rd rs1 rs2 rm) s = .next t ∧
        s.DoneS t rd (addF binary32 s.envS m (s.readS rs1) (s.readS rs2)).1
          (addF binary32 s.envS m (s.readS rs1) (s.readS rs2)).2) ∧
  (∀ (s : State) (rd rs1 rs2 : FReg) (rm : RmField) (m : RoundingMode), s.roundsWith rm m →
      ∃ t, exec (.fsubS rd rs1 rs2 rm) s = .next t ∧
        s.DoneS t rd (subF binary32 s.envS m (s.readS rs1) (s.readS rs2)).1
          (subF binary32 s.envS m (s.readS rs1) (s.readS rs2)).2) ∧
  (∀ (s : State) (rd rs1 rs2 : FReg) (rm : RmField) (m : RoundingMode), s.roundsWith rm m →
      ∃ t, exec (.fmulS rd rs1 rs2 rm) s = .next t ∧
        s.DoneS t rd (mulF binary32 s.envS m (s.readS rs1) (s.readS rs2)).1
          (mulF binary32 s.envS m (s.readS rs1) (s.readS rs2)).2) ∧
  (∀ (s : State) (rd rs1 rs2 : FReg) (rm : RmField) (m : RoundingMode), s.roundsWith rm m →
      ∃ t, exec (.fdivS rd rs1 rs2 rm) s = .next t ∧
        s.DoneS t rd (divF binary32 s.envS m (s.readS rs1) (s.readS rs2)).1
          (divF binary32 s.envS m (s.readS rs1) (s.readS rs2)).2) ∧
  (∀ (s : State) (rd : FReg) (rs1 : FReg) (rm : RmField) (m : RoundingMode), s.roundsWith rm m →
      ∃ t, exec (.fsqrtS rd rs1 rm) s = .next t ∧
        s.DoneS t rd (sqrtF binary32 s.envS m (s.readS rs1)).1
          (sqrtF binary32 s.envS m (s.readS rs1)).2) ∧
  (∀ (s : State) (rd rs1 rs2 : FReg) (rm : RmField) (m : RoundingMode), s.roundsWith rm m →
      ∃ t, exec (.faddD rd rs1 rs2 rm) s = .next t ∧
        s.DoneD t rd (addF binary64 s.envD m (s.readF rs1) (s.readF rs2)).1
          (addF binary64 s.envD m (s.readF rs1) (s.readF rs2)).2) ∧
  (∀ (s : State) (rd rs1 rs2 : FReg) (rm : RmField) (m : RoundingMode), s.roundsWith rm m →
      ∃ t, exec (.fsubD rd rs1 rs2 rm) s = .next t ∧
        s.DoneD t rd (subF binary64 s.envD m (s.readF rs1) (s.readF rs2)).1
          (subF binary64 s.envD m (s.readF rs1) (s.readF rs2)).2) ∧
  (∀ (s : State) (rd rs1 rs2 : FReg) (rm : RmField) (m : RoundingMode), s.roundsWith rm m →
      ∃ t, exec (.fmulD rd rs1 rs2 rm) s = .next t ∧
        s.DoneD t rd (mulF binary64 s.envD m (s.readF rs1) (s.readF rs2)).1
          (mulF binary64 s.envD m (s.readF rs1) (s.readF rs2)).2) ∧
  (∀ (s : State) (rd rs1 rs2 : FReg) (rm : RmField) (m : RoundingMode), s.roundsWith rm m →
      ∃ t, exec (.fdivD rd rs1 rs2 rm) s = .next t ∧
        s.DoneD t rd (divF binary64 s.envD m (s.readF rs1) (s.readF rs2)).1
          (divF binary64 s.envD m (s.readF rs1) (s.readF rs2)).2) ∧
  (∀ (s : State) (rd : FReg) (rs1 : FReg) (rm : RmField) (m : RoundingMode), s.roundsWith rm m →
      ∃ t, exec (.fsqrtD rd rs1 rm) s = .next t ∧
        s.DoneD t rd (sqrtF binary64 s.envD m (s.readF rs1)).1
          (sqrtF binary64 s.envD m (s.readF rs1)).2)

/-- fmadd, fmsub, fnmsub and fnmadd, .s and .d, complete with the fused primitive's value and flags. Rests on: 43_fused.md R124 to R131 and its introduction; 40_numerics.md R93. -/
def Obligations.FusedCompletes : Prop :=
  (∀ (s : State) (rd rs1 rs2 rs3 : FReg) (rm : RmField) (m : RoundingMode), s.roundsWith rm m →
      ∃ t, exec (.fmaddS rd rs1 rs2 rs3 rm) s = .next t ∧
        s.DoneS t rd (fmaF binary32 s.envS m (s.readS rs1) (s.readS rs2) (s.readS rs3) false false).1
          (fmaF binary32 s.envS m (s.readS rs1) (s.readS rs2) (s.readS rs3) false false).2) ∧
  (∀ (s : State) (rd rs1 rs2 rs3 : FReg) (rm : RmField) (m : RoundingMode), s.roundsWith rm m →
      ∃ t, exec (.fmsubS rd rs1 rs2 rs3 rm) s = .next t ∧
        s.DoneS t rd (fmaF binary32 s.envS m (s.readS rs1) (s.readS rs2) (s.readS rs3) false true).1
          (fmaF binary32 s.envS m (s.readS rs1) (s.readS rs2) (s.readS rs3) false true).2) ∧
  (∀ (s : State) (rd rs1 rs2 rs3 : FReg) (rm : RmField) (m : RoundingMode), s.roundsWith rm m →
      (s.launch.params.fnmPairing = .isa → ∃ t, exec (.fnmsubS rd rs1 rs2 rs3 rm) s = .next t ∧
        s.DoneS t rd (fmaF binary32 s.envS m (s.readS rs1) (s.readS rs2) (s.readS rs3) true false).1
          (fmaF binary32 s.envS m (s.readS rs1) (s.readS rs2) (s.readS rs3) true false).2) ∧
      (s.launch.params.fnmPairing = .literal → ∃ t, exec (.fnmsubS rd rs1 rs2 rs3 rm) s = .next t ∧
        s.DoneS t rd (fmaF binary32 s.envS m (s.readS rs1) (s.readS rs2) (s.readS rs3) true true).1
          (fmaF binary32 s.envS m (s.readS rs1) (s.readS rs2) (s.readS rs3) true true).2)) ∧
  (∀ (s : State) (rd rs1 rs2 rs3 : FReg) (rm : RmField) (m : RoundingMode), s.roundsWith rm m →
      (s.launch.params.fnmPairing = .isa → ∃ t, exec (.fnmaddS rd rs1 rs2 rs3 rm) s = .next t ∧
        s.DoneS t rd (fmaF binary32 s.envS m (s.readS rs1) (s.readS rs2) (s.readS rs3) true true).1
          (fmaF binary32 s.envS m (s.readS rs1) (s.readS rs2) (s.readS rs3) true true).2) ∧
      (s.launch.params.fnmPairing = .literal → ∃ t, exec (.fnmaddS rd rs1 rs2 rs3 rm) s = .next t ∧
        s.DoneS t rd (fmaF binary32 s.envS m (s.readS rs1) (s.readS rs2) (s.readS rs3) true false).1
          (fmaF binary32 s.envS m (s.readS rs1) (s.readS rs2) (s.readS rs3) true false).2)) ∧
  (∀ (s : State) (rd rs1 rs2 rs3 : FReg) (rm : RmField) (m : RoundingMode), s.roundsWith rm m →
      ∃ t, exec (.fmaddD rd rs1 rs2 rs3 rm) s = .next t ∧
        s.DoneD t rd (fmaF binary64 s.envD m (s.readF rs1) (s.readF rs2) (s.readF rs3) false false).1
          (fmaF binary64 s.envD m (s.readF rs1) (s.readF rs2) (s.readF rs3) false false).2) ∧
  (∀ (s : State) (rd rs1 rs2 rs3 : FReg) (rm : RmField) (m : RoundingMode), s.roundsWith rm m →
      ∃ t, exec (.fmsubD rd rs1 rs2 rs3 rm) s = .next t ∧
        s.DoneD t rd (fmaF binary64 s.envD m (s.readF rs1) (s.readF rs2) (s.readF rs3) false true).1
          (fmaF binary64 s.envD m (s.readF rs1) (s.readF rs2) (s.readF rs3) false true).2) ∧
  (∀ (s : State) (rd rs1 rs2 rs3 : FReg) (rm : RmField) (m : RoundingMode), s.roundsWith rm m →
      (s.launch.params.fnmPairing = .isa → ∃ t, exec (.fnmsubD rd rs1 rs2 rs3 rm) s = .next t ∧
        s.DoneD t rd (fmaF binary64 s.envD m (s.readF rs1) (s.readF rs2) (s.readF rs3) true false).1
          (fmaF binary64 s.envD m (s.readF rs1) (s.readF rs2) (s.readF rs3) true false).2) ∧
      (s.launch.params.fnmPairing = .literal → ∃ t, exec (.fnmsubD rd rs1 rs2 rs3 rm) s = .next t ∧
        s.DoneD t rd (fmaF binary64 s.envD m (s.readF rs1) (s.readF rs2) (s.readF rs3) true true).1
          (fmaF binary64 s.envD m (s.readF rs1) (s.readF rs2) (s.readF rs3) true true).2)) ∧
  (∀ (s : State) (rd rs1 rs2 rs3 : FReg) (rm : RmField) (m : RoundingMode), s.roundsWith rm m →
      (s.launch.params.fnmPairing = .isa → ∃ t, exec (.fnmaddD rd rs1 rs2 rs3 rm) s = .next t ∧
        s.DoneD t rd (fmaF binary64 s.envD m (s.readF rs1) (s.readF rs2) (s.readF rs3) true true).1
          (fmaF binary64 s.envD m (s.readF rs1) (s.readF rs2) (s.readF rs3) true true).2) ∧
      (s.launch.params.fnmPairing = .literal → ∃ t, exec (.fnmaddD rd rs1 rs2 rs3 rm) s = .next t ∧
        s.DoneD t rd (fmaF binary64 s.envD m (s.readF rs1) (s.readF rs2) (s.readF rs3) true false).1
          (fmaF binary64 s.envD m (s.readF rs1) (s.readF rs2) (s.readF rs3) true false).2))

/-- fmin and fmax, .s and .d, complete with the primitive's value and flags in every state. Rests on: 42_arithmetic.md R115, R116, R122, R123; 40_numerics.md R94. -/
def Obligations.MinMaxCompletes : Prop :=
  (∀ (s : State) (rd rs1 rs2 : FReg), ∃ t, exec (.fminS rd rs1 rs2) s = .next t ∧
      s.DoneS t rd (minMaxF binary32 s.envS false (s.readS rs1) (s.readS rs2)).1 (minMaxF binary32 s.envS false (s.readS rs1) (s.readS rs2)).2) ∧
  (∀ (s : State) (rd rs1 rs2 : FReg), ∃ t, exec (.fmaxS rd rs1 rs2) s = .next t ∧
      s.DoneS t rd (minMaxF binary32 s.envS true (s.readS rs1) (s.readS rs2)).1 (minMaxF binary32 s.envS true (s.readS rs1) (s.readS rs2)).2) ∧
  (∀ (s : State) (rd rs1 rs2 : FReg), ∃ t, exec (.fminD rd rs1 rs2) s = .next t ∧
      s.DoneD t rd (minMaxF binary64 s.envD false (s.readF rs1) (s.readF rs2)).1 (minMaxF binary64 s.envD false (s.readF rs1) (s.readF rs2)).2) ∧
  (∀ (s : State) (rd rs1 rs2 : FReg), ∃ t, exec (.fmaxD rd rs1 rs2) s = .next t ∧
      s.DoneD t rd (minMaxF binary64 s.envD true (s.readF rs1) (s.readF rs2)).1 (minMaxF binary64 s.envD true (s.readF rs1) (s.readF rs2)).2)

/-- feq, flt and fle, .s and .d, put 1 or 0 into an x register and accrue their flags in every state. Rests on: 44_compare.md R132 to R137; 40_numerics.md R95. -/
def Obligations.ComparisonsComplete : Prop :=
  (∀ (s : State) (rd : XReg) (rs1 rs2 : FReg), ∃ t, exec (.feqS rd rs1 rs2) s = .next t ∧
      s.DoneX t rd (if (eqF binary32 (s.readS rs1) (s.readS rs2)).1 then 1 else 0)
        (eqF binary32 (s.readS rs1) (s.readS rs2)).2) ∧
  (∀ (s : State) (rd : XReg) (rs1 rs2 : FReg), ∃ t, exec (.fltS rd rs1 rs2) s = .next t ∧
      s.DoneX t rd (if (ltF binary32 (s.readS rs1) (s.readS rs2)).1 then 1 else 0)
        (ltF binary32 (s.readS rs1) (s.readS rs2)).2) ∧
  (∀ (s : State) (rd : XReg) (rs1 rs2 : FReg), ∃ t, exec (.fleS rd rs1 rs2) s = .next t ∧
      s.DoneX t rd (if (leF binary32 (s.readS rs1) (s.readS rs2)).1 then 1 else 0)
        (leF binary32 (s.readS rs1) (s.readS rs2)).2) ∧
  (∀ (s : State) (rd : XReg) (rs1 rs2 : FReg), ∃ t, exec (.feqD rd rs1 rs2) s = .next t ∧
      s.DoneX t rd (if (eqF binary64 (s.readF rs1) (s.readF rs2)).1 then 1 else 0)
        (eqF binary64 (s.readF rs1) (s.readF rs2)).2) ∧
  (∀ (s : State) (rd : XReg) (rs1 rs2 : FReg), ∃ t, exec (.fltD rd rs1 rs2) s = .next t ∧
      s.DoneX t rd (if (ltF binary64 (s.readF rs1) (s.readF rs2)).1 then 1 else 0)
        (ltF binary64 (s.readF rs1) (s.readF rs2)).2) ∧
  (∀ (s : State) (rd : XReg) (rs1 rs2 : FReg), ∃ t, exec (.fleD rd rs1 rs2) s = .next t ∧
      s.DoneX t rd (if (leF binary64 (s.readF rs1) (s.readF rs2)).1 then 1 else 0)
        (leF binary64 (s.readF rs1) (s.readF rs2)).2)

/-- fclass.s and fclass.d set exactly the bit of the class table, and raise no flag. Stated: R99. -/
def Obligations.ClassifyFollowsTheTable : Prop :=
  (∀ (s : State) (rd : XReg) (rs1 : FReg), ∃ t, exec (.fclassS rd rs1) s = .next t ∧
      s.DoneX t rd ((1 : Word) <<< (
        if (s.readS rs1).toNat = 0 then 4 else if (s.readS rs1).toNat ≤ 0x7fffff then 5 else if (s.readS rs1).toNat ≤ 0x7f7fffff then 6
        else if (s.readS rs1).toNat = 0x7f800000 then 7 else if (s.readS rs1).toNat < 0x7fc00000 then 8 else if (s.readS rs1).toNat < 0x80000000 then 9
        else if (s.readS rs1).toNat = 0x80000000 then 3 else if (s.readS rs1).toNat ≤ 0x807fffff then 2 else if (s.readS rs1).toNat < 0xff800000 then 1
        else if (s.readS rs1).toNat = 0xff800000 then 0 else if (s.readS rs1).toNat < 0xffc00000 then 8 else 9 : Nat)) noFlags) ∧
  (∀ (s : State) (rd : XReg) (rs1 : FReg), ∃ t, exec (.fclassD rd rs1) s = .next t ∧
      s.DoneX t rd ((1 : Word) <<< (
        if (s.readF rs1).toNat = 0 then 4 else if (s.readF rs1).toNat ≤ 0xfffffffffffff then 5 else if (s.readF rs1).toNat ≤ 0x7fefffffffffffff then 6
        else if (s.readF rs1).toNat = 0x7ff0000000000000 then 7 else if (s.readF rs1).toNat < 0x7ff8000000000000 then 8 else if (s.readF rs1).toNat < 0x8000000000000000 then 9
        else if (s.readF rs1).toNat = 0x8000000000000000 then 3 else if (s.readF rs1).toNat ≤ 0x800fffffffffffff then 2 else if (s.readF rs1).toNat < 0xfff0000000000000 then 1
        else if (s.readF rs1).toNat = 0xfff0000000000000 then 0 else if (s.readF rs1).toNat < 0xfff8000000000000 then 8 else 9 : Nat)) noFlags)

/-- fsgnj, fsgnjn and fsgnjx, .s and .d, take every bit but the sign from rs1 and the sign as their rules say. Rests on: 46_sign_classify.md R152 to R157. -/
def Obligations.SignInjection : Prop :=
  (∀ (s : State) (rd rs1 rs2 : FReg), ∃ t, ∃ v : Word, exec (.fsgnjS rd rs1 rs2) s = .next t ∧
      v.getLsbD 31 = ((s.readS rs2).getLsbD 31) ∧ (∀ k, k < 31 → v.getLsbD k = (s.readS rs1).getLsbD k) ∧ s.DoneS t rd v noFlags) ∧
  (∀ (s : State) (rd rs1 rs2 : FReg), ∃ t, ∃ v : Word, exec (.fsgnjnS rd rs1 rs2) s = .next t ∧
      v.getLsbD 31 = (!(s.readS rs2).getLsbD 31) ∧ (∀ k, k < 31 → v.getLsbD k = (s.readS rs1).getLsbD k) ∧ s.DoneS t rd v noFlags) ∧
  (∀ (s : State) (rd rs1 rs2 : FReg), ∃ t, ∃ v : Word, exec (.fsgnjxS rd rs1 rs2) s = .next t ∧
      v.getLsbD 31 = ((s.readS rs1).getLsbD 31 ^^ (s.readS rs2).getLsbD 31) ∧ (∀ k, k < 31 → v.getLsbD k = (s.readS rs1).getLsbD k) ∧ s.DoneS t rd v noFlags) ∧
  (∀ (s : State) (rd rs1 rs2 : FReg), ∃ t, ∃ v : DWord, exec (.fsgnjD rd rs1 rs2) s = .next t ∧
      v.getLsbD 63 = ((s.readF rs2).getLsbD 63) ∧ (∀ k, k < 63 → v.getLsbD k = (s.readF rs1).getLsbD k) ∧ s.DoneD t rd v noFlags) ∧
  (∀ (s : State) (rd rs1 rs2 : FReg), ∃ t, ∃ v : DWord, exec (.fsgnjnD rd rs1 rs2) s = .next t ∧
      v.getLsbD 63 = (!(s.readF rs2).getLsbD 63) ∧ (∀ k, k < 63 → v.getLsbD k = (s.readF rs1).getLsbD k) ∧ s.DoneD t rd v noFlags) ∧
  (∀ (s : State) (rd rs1 rs2 : FReg), ∃ t, ∃ v : DWord, exec (.fsgnjxD rd rs1 rs2) s = .next t ∧
      v.getLsbD 63 = ((s.readF rs1).getLsbD 63 ^^ (s.readF rs2).getLsbD 63) ∧ (∀ k, k < 63 → v.getLsbD k = (s.readF rs1).getLsbD k) ∧ s.DoneD t rd v noFlags)

/-- The ten conversions complete with the primitive's value and flags, the two moves copy bits. Rests on: 45_convert_move.md R139 to R150; 40_numerics.md R96 to R98. -/
def Obligations.ConversionsAndMovesComplete : Prop :=
  (∀ (s : State) (rd : XReg) (rs1 : FReg) (rm : RmField) (m : RoundingMode), s.roundsWith rm m →
      ∃ t, exec (.fcvtWS rd rs1 rm) s = .next t ∧
        s.DoneX t rd (toIntF binary32 m true (s.readS rs1)).1
          (toIntF binary32 m true (s.readS rs1)).2) ∧
  (∀ (s : State) (rd : XReg) (rs1 : FReg) (rm : RmField) (m : RoundingMode), s.roundsWith rm m →
      ∃ t, exec (.fcvtWuS rd rs1 rm) s = .next t ∧
        s.DoneX t rd (toIntF binary32 m false (s.readS rs1)).1
          (toIntF binary32 m false (s.readS rs1)).2) ∧
  (∀ (s : State) (rd : XReg) (rs1 : FReg) (rm : RmField) (m : RoundingMode), s.roundsWith rm m →
      ∃ t, exec (.fcvtWD rd rs1 rm) s = .next t ∧
        s.DoneX t rd (toIntF binary64 m true (s.readF rs1)).1
          (toIntF binary64 m true (s.readF rs1)).2) ∧
  (∀ (s : State) (rd : XReg) (rs1 : FReg) (rm : RmField) (m : RoundingMode), s.roundsWith rm m →
      ∃ t, exec (.fcvtWuD rd rs1 rm) s = .next t ∧
        s.DoneX t rd (toIntF binary64 m false (s.readF rs1)).1
          (toIntF binary64 m false (s.readF rs1)).2) ∧
  (∀ (s : State) (rd : FReg) (rs1 : XReg) (rm : RmField) (m : RoundingMode), s.roundsWith rm m →
      ∃ t, exec (.fcvtSW rd rs1 rm) s = .next t ∧
        s.DoneS t rd (fromIntF binary32 s.launch.params.tininess m true (s.readX rs1) : Word × FlagSet).1
          (fromIntF binary32 s.launch.params.tininess m true (s.readX rs1) : Word × FlagSet).2) ∧
  (∀ (s : State) (rd : FReg) (rs1 : XReg) (rm : RmField) (m : RoundingMode), s.roundsWith rm m →
      ∃ t, exec (.fcvtSWu rd rs1 rm) s = .next t ∧
        s.DoneS t rd (fromIntF binary32 s.launch.params.tininess m false (s.readX rs1) : Word × FlagSet).1
          (fromIntF binary32 s.launch.params.tininess m false (s.readX rs1) : Word × FlagSet).2) ∧
  (∀ (s : State) (rd : FReg) (rs1 : XReg) (rm : RmField) (m : RoundingMode), s.roundsWith rm m →
      ∃ t, exec (.fcvtDW rd rs1 rm) s = .next t ∧
        s.DoneD t rd (fromIntF binary64 s.launch.params.tininess m true (s.readX rs1)).1 noFlags) ∧
  (∀ (s : State) (rd : FReg) (rs1 : XReg) (rm : RmField) (m : RoundingMode), s.roundsWith rm m →
      ∃ t, exec (.fcvtDWu rd rs1 rm) s = .next t ∧
        s.DoneD t rd (fromIntF binary64 s.launch.params.tininess m false (s.readX rs1)).1 noFlags) ∧
  (∀ (s : State) (rd : FReg) (rs1 : FReg) (rm : RmField) (m : RoundingMode), s.roundsWith rm m →
      ∃ t, exec (.fcvtSD rd rs1 rm) s = .next t ∧
        s.DoneS t rd (convertF binary64 binary32 s.envS m (s.readF rs1)).1
          (convertF binary64 binary32 s.envS m (s.readF rs1)).2) ∧
  (∀ (s : State) (rd : FReg) (rs1 : FReg) (rm : RmField) (m : RoundingMode), s.roundsWith rm m →
      ∃ t, exec (.fcvtDS rd rs1 rm) s = .next t ∧
        s.DoneD t rd (convertF binary32 binary64 s.envD m (s.readS rs1)).1
          (convertF binary32 binary64 s.envD m (s.readS rs1)).2) ∧
  (∀ (s : State) (rd : XReg) (rs1 : FReg), ∃ t, exec (.fmvXW rd rs1) s = .next t ∧
      s.DoneX t rd ((s.readF rs1).extractLsb' 0 32) noFlags) ∧
  (∀ (s : State) (rd : FReg) (rs1 : XReg), ∃ t, exec (.fmvWX rd rs1) s = .next t ∧
      s.DoneS t rd (s.readX rs1) noFlags)

/-- The six CSR instructions on fflags, frm and fcsr put the old value in rd and write the new one; other CSRs are refused. Rests on: 47_base_subset.md R181 to R186, R189; 10_state.md R30, R31. -/
def Obligations.CsrInstructions : Prop :=
  (∀ (s : State) (rd : XReg) (n : BitVec 12) (rs1 : XReg) (c : Csr), csrOfNumber n = some c →
      ∃ t, exec (.csrrw rd n rs1) s = .next t ∧ s.DoneCsr t rd c (some (s.readX rs1))) ∧
  (∀ (s : State) (rd : XReg) (n : BitVec 12) (rs1 : XReg) (c : Csr), csrOfNumber n = some c →
      ∃ t, exec (.csrrs rd n rs1) s = .next t ∧ s.DoneCsr t rd c (if rs1 = 0 then none else some (s.readCsr c ||| s.readX rs1))) ∧
  (∀ (s : State) (rd : XReg) (n : BitVec 12) (rs1 : XReg) (c : Csr), csrOfNumber n = some c →
      ∃ t, exec (.csrrc rd n rs1) s = .next t ∧ s.DoneCsr t rd c (if rs1 = 0 then none else some (s.readCsr c &&& ~~~s.readX rs1))) ∧
  (∀ (s : State) (rd : XReg) (n : BitVec 12) (uimm : BitVec 5) (c : Csr), csrOfNumber n = some c →
      ∃ t, exec (.csrrwi rd n uimm) s = .next t ∧ s.DoneCsr t rd c (some (uimm.setWidth 32))) ∧
  (∀ (s : State) (rd : XReg) (n : BitVec 12) (uimm : BitVec 5) (c : Csr), csrOfNumber n = some c →
      ∃ t, exec (.csrrsi rd n uimm) s = .next t ∧ s.DoneCsr t rd c (if uimm = 0 then none else some (s.readCsr c ||| uimm.setWidth 32))) ∧
  (∀ (s : State) (rd : XReg) (n : BitVec 12) (uimm : BitVec 5) (c : Csr), csrOfNumber n = some c →
      ∃ t, exec (.csrrci rd n uimm) s = .next t ∧ s.DoneCsr t rd c (if uimm = 0 then none else some (s.readCsr c &&& ~~~(uimm.setWidth 32 : Word)))) ∧
  (∀ (s : State) (i : Instr) (rd : XReg) (n : BitVec 12) (z : BitVec 5), n ≠ 0x001 → n ≠ 0x002 → n ≠ 0x003 →
      i ∈ [Instr.csrrw rd n z, .csrrs rd n z, .csrrc rd n z, .csrrwi rd n z, .csrrsi rd n z, .csrrci rd n z] →
      exec i s = .refused (.csrNotDescribed n))

/-- ecall and ebreak are single words and always trap; other words of their opcode and funct3 are refused. Stated: R187; R188. -/
def Obligations.EnvironmentInstructions : Prop :=
  decodeWord 0x00000073 = .instr .ecall ∧ decodeWord 0x00100073 = .instr .ebreak ∧
  (∀ s : State, ∃ t, exec .ecall s = .next t ∧ s.Traps t .environmentCall none) ∧
  (∀ s : State, ∃ t, exec .ebreak s = .next t ∧ s.Traps t .breakpoint (some s.pc)) ∧
  (∀ w : Word, opcodeField w = 0b1110011 → funct3Field w = 0b000 → w ≠ 0x00000073 → w ≠ 0x00100073 →
    decodeWord w = .notDescribed w)

/-- x0 reads 0 and discards writes; every other x and every f register holds what was written; the files are separate. Rests on: 10_state.md R14, R16, R21, R23. -/
def Obligations.RegisterFiles : Prop :=
  ∀ (s : State) (d : BitVec 5) (v : Word) (u : DWord), s.readX 0 = 0 ∧
    s.onlyX (s.writeX d v) d v ∧ s.sameF (s.writeX d v) ∧ s.onlyF (s.writeF d u) d u ∧ s.sameX (s.writeF d u)

/-- accrue ors the flags into fcsr[4:0]; the three CSRs read and write the fields of fcsr the table gives. Stated: R29; R30. -/
def Obligations.AccrueAndCsrFields : Prop :=
  (∀ (s : State) (fl : FlagSet), s.accrued (s.accrue fl) fl ∧ (s.accrue noFlags).fcsr = s.fcsr ∧
    s.accrue fl = { s with fcsr := (s.accrue fl).fcsr }) ∧
  csrOfNumber 0x001 = some .fflags ∧ csrOfNumber 0x002 = some .frm ∧ csrOfNumber 0x003 = some .fcsr ∧
  ∀ s : State, s.readCsr .fflags = (s.fcsr.extractLsb' 0 5).setWidth 32 ∧
    s.readCsr .frm = (s.fcsr.extractLsb' 5 3).setWidth 32 ∧ s.readCsr .fcsr = (s.fcsr.extractLsb' 0 8).setWidth 32 ∧
    ∀ (c : Csr) (v : Word), s.csrWritten (s.writeCsr c v) c (some v) ∧
      s.writeCsr c v = { s with fcsr := (s.writeCsr c v).fcsr }

/-- A single written to an f register is read back by a single-precision instruction, under either BOX_CHECK. Rests on: 10_state.md R19, R20. -/
def Obligations.BoxedSingleReadsBack : Prop :=
  ∀ (s : State) (r : FReg) (v : Word),
    (s.launch.params.boxWrite = .ones ∨ s.launch.params.boxCheck = .ignore → (s.writeS r v).readS r = v) ∧
    (s.launch.params.boxCheck = .check → (s.readF r).extractLsb' 32 32 ≠ 0xffffffff → s.readS r = 0x7fc00000)

/-- Reads and writes of 4 and 8 bytes place byte k of the value at address a + k and change no other byte. Stated: R37. -/
def Obligations.MemoryIsLittleEndian : Prop :=
  ∀ (m : Memory) (a : Nat) (v : Word) (d : DWord),
    (∀ k, k < 4 → (Memory.readWord m a).extractLsb' (8 * k) 8 = Memory.read m (a + k)) ∧
    (∀ k, k < 8 → (Memory.readDouble m a).extractLsb' (8 * k) 8 = Memory.read m (a + k)) ∧
    (∀ k, k < 4 → Memory.read (Memory.writeWord m a v) (a + k) = v.extractLsb' (8 * k) 8) ∧
    (∀ k, k < 8 → Memory.read (Memory.writeDouble m a d) (a + k) = d.extractLsb' (8 * k) 8) ∧
    (∀ b, b < a ∨ a + 4 ≤ b → Memory.read (Memory.writeWord m a v) b = Memory.read m b) ∧
    (∀ b, b < a ∨ a + 8 ≤ b → Memory.read (Memory.writeDouble m a d) b = Memory.read m b)

/-- A doubleword stored is read back as its two words, and two words stored as one doubleword. Stated: R39. -/
def Obligations.MixedWidthAccesses : Prop :=
  ∀ (s : State) (r1 r2 : XReg) (i1 i2 : BitVec 12), (s.effectiveAddress r1 i1).toNat % 8 = 0 →
    s.accessAllowed (s.effectiveAddress r1 i1) 8 → s.effectiveAddress r2 i2 = s.effectiveAddress r1 i1 + 4 →
    (∀ (g rd : FReg) (q : XReg), q ≠ 0 → ∃ t, exec (.fsd g r1 i1) s = .next t ∧
      (∃ u, exec (.flw rd r1 i1) t = .next u ∧ u.trap = s.trap ∧ lowHalf (u.readF rd) = lowHalf (s.readF g)) ∧
      (∃ u, exec (.flw rd r2 i2) t = .next u ∧ u.trap = s.trap ∧ lowHalf (u.readF rd) = highHalf (s.readF g)) ∧
      (∃ u, exec (.lw q r1 i1) t = .next u ∧ u.trap = s.trap ∧ u.readX q = lowHalf (s.readF g)) ∧
      (∃ u, exec (.lw q r2 i2) t = .next u ∧ u.trap = s.trap ∧ u.readX q = highHalf (s.readF g))) ∧
    (∀ (g h rd : FReg), ∃ t u v, exec (.fsw g r1 i1) s = .next t ∧ exec (.fsw h r2 i2) t = .next u ∧
      exec (.fld rd r1 i1) u = .next v ∧ v.trap = s.trap ∧ v.readF rd = lowHalf (s.readF h) ++ lowHalf (s.readF g)) ∧
    (∀ (g h : XReg) (rd : FReg), ∃ t u v, exec (.sw g r1 i1) s = .next t ∧ exec (.sw h r2 i2) t = .next u ∧
      exec (.fld rd r1 i1) u = .next v ∧ v.trap = s.trap ∧ v.readF rd = s.readX h ++ s.readX g)

/-- NaN operands, invalid operations and infinite operands give what R78 and R89 to R93 say; a produced NaN is the one NAN_RESULT names. Rests on: 40_numerics.md R77, R78, R89 to R93, R98; 40_numerics.md R84, R94. -/
def Obligations.SpecialOperandsGiveTheSpecialResults : Prop :=
  (∀ (w v : Nat) (f g : Format) (env : NumEnv w) (m : RoundingMode) (a b c : BitVec w) (e : BitVec v) (np nc : Bool),
    (isNaN f a = true ∨ isNaN f b = true → ∀ op ∈ [addF f env m, subF f env m, mulF f env m, divF f env m],
      op a b = (env.nan, if isSignaling f a || isSignaling f b then flagNV else noFlags)) ∧
    (isNaN f a = true → sqrtF f env m a = (env.nan, if isSignaling f a then flagNV else noFlags)) ∧
    (isNaN g e = true → convertF g f env m e = (env.nan, if isSignaling g e then flagNV else noFlags)) ∧
    (((isInf f a && isZero f b) || (isZero f a && isInf f b)) = true → fmaF f env m a b c np nc = (env.nan, flagNV)) ∧
    (((isInf f a && isZero f b) || (isZero f a && isInf f b)) = false →
      isNaN f a = true ∨ isNaN f b = true ∨ isNaN f c = true →
      fmaF f env m a b c np nc =
        (env.nan, if isSignaling f a || isSignaling f b || isSignaling f c then flagNV else noFlags))) ∧
  (∀ (w : Nat) (f : Format), isStandard f w → ∀ (env : NumEnv w) (m : RoundingMode) (a b c : BitVec w) (np nc : Bool),
    (isInf f a = true → isInf f b = true →
      addF f env m a b = (if signBit f a = signBit f b then (infOf f (signBit f a), noFlags) else (env.nan, flagNV)) ∧
      subF f env m a b = (if signBit f a = signBit f b then (env.nan, flagNV) else (infOf f (signBit f a), noFlags)) ∧
      mulF f env m a b = (infOf f (signBit f a ^^ signBit f b), noFlags) ∧ divF f env m a b = (env.nan, flagNV)) ∧
    (isInf f a = true → isFinite f b = true →
      addF f env m a b = (infOf f (signBit f a), noFlags) ∧ addF f env m b a = (infOf f (signBit f a), noFlags) ∧
      subF f env m a b = (infOf f (signBit f a), noFlags) ∧ subF f env m b a = (infOf f (!signBit f a), noFlags) ∧
      mulF f env m a b = (if isZero f b then (env.nan, flagNV) else (infOf f (signBit f a ^^ signBit f b), noFlags)) ∧
      mulF f env m b a = (if isZero f b then (env.nan, flagNV) else (infOf f (signBit f a ^^ signBit f b), noFlags)) ∧
      divF f env m a b = (infOf f (signBit f a ^^ signBit f b), noFlags)) ∧
    (isZero f a = true → isZero f b = true → divF f env m a b = (env.nan, flagNV)) ∧
    (isNaN f a = false → isZero f a = false → signBit f a = true → sqrtF f env m a = (env.nan, flagNV)) ∧
    (isInf f a = true → signBit f a = false → sqrtF f env m a = (infOf f false, noFlags)) ∧
    ((isInf f a = true ∧ isNaN f b = false ∧ isZero f b = false) ∨
        (isInf f b = true ∧ isNaN f a = false ∧ isZero f a = false) → isNaN f c = false →
      fmaF f env m a b c np nc =
        if isInf f c = true ∧ (signBit f c ^^ nc) ≠ (signBit f a ^^ signBit f b ^^ np) then (env.nan, flagNV)
        else (infOf f (signBit f a ^^ signBit f b ^^ np), noFlags)) ∧
    (isFinite f a = true → isFinite f b = true → isInf f c = true →
      fmaF f env m a b c np nc = (infOf f (signBit f c ^^ nc), noFlags)) ∧
    (∀ (v : Nat) (g : Format) (e : NumEnv v), isStandard g v → isInf f a = true →
      convertF f g e m a = (infOf g (signBit f a), noFlags))) ∧
  (∀ s : State, s.envS.tininess = s.launch.params.tininess ∧ s.envD.tininess = s.launch.params.tininess ∧
    s.envS.minMax = s.launch.params.minMax ∧ s.envD.minMax = s.launch.params.minMax ∧
    (s.launch.params.nanResult = .canonical → s.envS.nan = 0x7fc00000 ∧ s.envD.nan = 0x7ff8000000000000) ∧
    (s.launch.params.nanResult = .draw → s.envS.nan = quietNaN32 (Config.freeNanBits32 s.draws) ∧
      s.envD.nan = quietNaN64 (Config.freeNanBits64 s.draws)) ∧
    isNaN binary32 s.envS.nan = true ∧ isSignaling binary32 s.envS.nan = false ∧
    isNaN binary64 s.envD.nan = true ∧ isSignaling binary64 s.envD.nan = false) ∧
  (∀ x : Word, isNaN binary32 x = true → isSignaling binary32 x = false → ∃ b, quietNaN32 b = x) ∧
  (∀ x : DWord, isNaN binary64 x = true → isSignaling binary64 x = false → ∃ b, quietNaN64 b = x)

/-- An overflow raises OF and NX and delivers the result the table gives for the mode and sign. Stated: R83. -/
def Obligations.OverflowFollowsTheTable : Prop :=
  (∀ (tin : Tininess) (m : RoundingMode) (sg : Bool) (a : Magnitude),
    overflows binary32 (pick m sg (a.onGrid (unboundedGrid binary32 a))) (unboundedGrid binary32 a) = true →
    (roundMagnitude binary32 tin m sg a : Word × FlagSet) =
      (match m, sg with
       | .rne, false => 0x7f800000 | .rmm, false => 0x7f800000 | .rup, false => 0x7f800000
       | .rtz, false => 0x7f7fffff | .rdn, false => 0x7f7fffff
       | .rne, true => 0xff800000 | .rmm, true => 0xff800000 | .rdn, true => 0xff800000
       | .rtz, true => 0xff7fffff | .rup, true => 0xff7fffff, 0b00101)) ∧
  (∀ (tin : Tininess) (m : RoundingMode) (sg : Bool) (a : Magnitude),
    overflows binary64 (pick m sg (a.onGrid (unboundedGrid binary64 a))) (unboundedGrid binary64 a) = true →
    (roundMagnitude binary64 tin m sg a : DWord × FlagSet) =
      (match m, sg with
       | .rne, false => 0x7ff0000000000000 | .rmm, false => 0x7ff0000000000000 | .rup, false => 0x7ff0000000000000
       | .rtz, false => 0x7fefffffffffffff | .rdn, false => 0x7fefffffffffffff
       | .rne, true => 0xfff0000000000000 | .rmm, true => 0xfff0000000000000 | .rdn, true => 0xfff0000000000000
       | .rtz, true => 0xffefffffffffffff | .rup, true => 0xffefffffffffffff, 0b00101))

/-- UF is raised exactly when the result is inexact and tiny, as TININESS says; the two settings differ in UF alone. Rests on: 40_numerics.md R82, R84. -/
def Obligations.UnderflowFollowsTininess : Prop :=
  ∀ (w : Nat) (f : Format), isStandard f w → ∀ (m : RoundingMode) (sg : Bool) (a : Magnitude), a.positive = true →
    (∀ (tin : Tininess) (p : BitVec w × FlagSet), p = roundMagnitude f tin m sg a →
      (p.2.getLsbD 1 = true ↔ tinyReal f tin m sg a = true ∧ p.2.getLsbD 0 = true)) ∧
    ∀ p q : BitVec w × FlagSet, p = roundMagnitude f .after m sg a → q = roundMagnitude f .before m sg a →
      p.1 = q.1 ∧ (∀ k, k ≠ 1 → p.2.getLsbD k = q.2.getLsbD k) ∧ (p.2.getLsbD 1 = true → q.2.getLsbD 1 = true)

/-- The sign of a zero result is that of r after underflow, and as R86 gives it for exact zeros. Stated: R86. -/
def Obligations.ZeroSigns : Prop :=
  ∀ (w : Nat) (f : Format), isStandard f w → ∀ (env : NumEnv w) (m : RoundingMode) (a b c : BitVec w),
    (∀ (tin : Tininess) (r : BinNum), r.num ≠ 0 → isZero f (roundNum f tin m r : BitVec w × FlagSet).1 = true →
      (roundNum f tin m r : BitVec w × FlagSet).1 = zeroOf f (decide (r.num < 0))) ∧
    (∀ (tin : Tininess) (sg : Bool) (r : Magnitude), r.positive = true →
      isZero f (roundMagnitude f tin m sg r : BitVec w × FlagSet).1 = true →
      (roundMagnitude f tin m sg r : BitVec w × FlagSet).1 = zeroOf f sg) ∧
    (isFinite f a = true → isFinite f b = true → ((valueOf f a).add (valueOf f b)).num = 0 →
      addF f env m a b =
        (zeroOf f (if signBit f a = signBit f b then signBit f a else decide (m = .rdn)), noFlags)) ∧
    (isFinite f a = true → isFinite f b = true → ((valueOf f a).add ((valueOf f b).negIf true)).num = 0 →
      subF f env m a b =
        (zeroOf f (if signBit f a = !signBit f b then signBit f a else decide (m = .rdn)), noFlags)) ∧
    (isFinite f a = true → isFinite f b = true → isFinite f c = true → ∀ np nc : Bool,
      ((((valueOf f a).mul (valueOf f b)).negIf np).add ((valueOf f c).negIf nc)).num = 0 →
      fmaF f env m a b c np nc =
        (zeroOf f (if (signBit f a ^^ signBit f b ^^ np) = (signBit f c ^^ nc) then (signBit f c ^^ nc)
          else decide (m = .rdn)), noFlags)) ∧
    (isZero f a = true → isFinite f b = true →
      mulF f env m a b = (zeroOf f (signBit f a ^^ signBit f b), noFlags) ∧
      mulF f env m b a = (zeroOf f (signBit f a ^^ signBit f b), noFlags)) ∧
    (isZero f a = true → isNaN f b = false → isZero f b = false →
      divF f env m a b = (zeroOf f (signBit f a ^^ signBit f b), noFlags)) ∧
    (isFinite f a = true → isInf f b = true →
      divF f env m a b = (zeroOf f (signBit f a ^^ signBit f b), noFlags)) ∧
    sqrtF f env m (zeroOf f true : BitVec w) = (zeroOf f true, noFlags)

/-- The grid position of a ratio or a square root is its floor, with the rest compared exactly with half a step. Rests on: 40_numerics.md R79, R82. -/
def Obligations.GridPositionIsExact : Prop :=
  (∀ num den : Nat, 0 < den → ∀ k r, ratioOnGrid num den = (k, r) →
    k * den ≤ num ∧ num < (k + 1) * den ∧ (r = .exact ↔ num = k * den) ∧
    (r = .belowHalf ↔ k * den < num ∧ 2 * num < (2 * k + 1) * den) ∧ (r = .half ↔ 2 * num = (2 * k + 1) * den) ∧
    (r = .aboveHalf ↔ (2 * k + 1) * den < 2 * num)) ∧
  (∀ num den : Nat, 0 < den → ∀ k r, rootOnGrid num den = (k, r) →
    k * k * den ≤ num ∧ num < (k + 1) * (k + 1) * den ∧ (r = .exact ↔ num = k * k * den) ∧
    (r = .belowHalf ↔ k * k * den < num ∧ 4 * num < (2 * k + 1) * (2 * k + 1) * den) ∧
    (r = .half ↔ 4 * num = (2 * k + 1) * (2 * k + 1) * den) ∧
    (r = .aboveHalf ↔ (2 * k + 1) * (2 * k + 1) * den < 4 * num))

/-- Rounding the exact value of a finite nonzero pattern gives the pattern back, in every mode, with no flag. Rests on: 40_numerics.md R75, R79, R82, R100. -/
def Obligations.RepresentableValuesRoundToThemselves : Prop :=
  ∀ (w : Nat) (f : Format), isStandard f w → ∀ (tin : Tininess) (m : RoundingMode) (a : BitVec w),
    isFinite f a = true → isZero f a = false → roundNum f tin m (valueOf f a) = (a, noFlags)

/-- Rounding depends on the exact number alone, not on how it is written as num * 2^exp. Rests on: 40_numerics.md R82, R101. -/
def Obligations.RoundingSeesOnlyTheValue : Prop :=
  ∀ (w : Nat) (f : Format) (tin : Tininess) (m : RoundingMode) (r q : BinNum), r.num ≠ 0 →
    (r.sameValue q → (roundNum f tin m r : BitVec w × FlagSet) = roundNum f tin m q) ∧
    (roundNum f tin m r : BitVec w × FlagSet) = roundMagnitude f tin m (decide (r.num < 0)) (.ratio r.num.natAbs 1 r.exp) ∧
    leReal q (decide (r.num < 0)) (.ratio r.num.natAbs 1 r.exp) = q.le r ∧
    realLe (decide (r.num < 0)) (.ratio r.num.natAbs 1 r.exp) q = r.le q

/-- RDN delivers the greatest value not above the real, RUP the least not below, RTZ the one of the two nearer zero. Rests on: 40_numerics.md R79, R82, R83. -/
def Obligations.DirectedRoundingIsTight : Prop :=
  ∀ (w : Nat) (f : Format), isStandard f w → ∀ (tin : Tininess) (sg : Bool) (a : Magnitude), a.positive = true →
    ∀ d u : BitVec w × FlagSet, d = roundMagnitude f tin .rdn sg a → u = roundMagnitude f tin .rup sg a →
      (isNaN f d.1 = false ∧ (isInf f d.1 = true → signBit f d.1 = true) ∧
        (isFinite f d.1 = true → leReal (valueOf f d.1) sg a = true) ∧
        ∀ q : BitVec w, isFinite f q = true → leReal (valueOf f q) sg a = true → numLt f d.1 q = false) ∧
      (isNaN f u.1 = false ∧ (isInf f u.1 = true → signBit f u.1 = false) ∧
        (isFinite f u.1 = true → realLe sg a (valueOf f u.1) = true) ∧
        ∀ q : BitVec w, isFinite f q = true → realLe sg a (valueOf f q) = true → numLt f q u.1 = false) ∧
      (roundMagnitude f tin .rtz sg a : BitVec w × FlagSet) = if sg then u else d

/-- RNE and RMM deliver the nearer neighbour, on a tie the even one and the larger; the infinity from half a step above MAXF on. Rests on: 40_numerics.md R79, R82, R83. -/
def Obligations.NearestModesPickTheNearer : Prop :=
  ∀ (w : Nat) (f : Format), isStandard f w → ∀ (tin : Tininess) (sg : Bool) (a : Magnitude), a.positive = true →
    ∀ d u n m : BitVec w, d = (roundMagnitude f tin .rdn sg a).1 → u = (roundMagnitude f tin .rup sg a).1 →
      n = (roundMagnitude f tin .rne sg a).1 → m = (roundMagnitude f tin .rmm sg a).1 →
      (n = d ∨ n = u) ∧ (m = d ∨ m = u) ∧
      (isInf f n = true ↔ leReal f.overflowMidpoint false a = true) ∧
      (isInf f m = true ↔ leReal f.overflowMidpoint false a = true) ∧
      (isFinite f d = true → isFinite f u = true → d ≠ u → ∀ mid : BinNum, mid = ((valueOf f d).add (valueOf f u)).half →
        (n = d ∨ m = d → realLe sg a mid = true) ∧ (n = u ∨ m = u → leReal mid sg a = true) ∧
        (realLe sg a mid = true → leReal mid sg a = true → n.getLsbD 0 = false ∧ m = if sg then d else u))

/-- NX is raised exactly when the delivered result differs from the exact one, and rounding never raises NV or DZ. Rests on: 40_numerics.md R85. -/
def Obligations.InexactExactlyWhenTheResultDiffers : Prop :=
  ∀ (w : Nat) (f : Format), isStandard f w → ∀ (tin : Tininess) (m : RoundingMode) (sg : Bool) (a : Magnitude),
    a.positive = true → ∀ p : BitVec w × FlagSet, p = roundMagnitude f tin m sg a →
      (p.2.getLsbD 0 = false ↔
        isFinite f p.1 = true ∧ leReal (valueOf f p.1) sg a = true ∧ realLe sg a (valueOf f p.1) = true) ∧
      (p.2.getLsbD 2 = true → p.2.getLsbD 0 = true) ∧ p.2.getLsbD 3 = false ∧ p.2.getLsbD 4 = false

/-- lt, eq and le on non-NaN patterns are the order of their signed magnitudes; a NaN makes them false with NV as R95 says. Rests on: 40_numerics.md R95. -/
def Obligations.ComparisonsFollowTheOrder : Prop :=
  ∀ (w : Nat) (f : Format), isStandard f w → ∀ a b : BitVec w,
    (isNaN f a = false → isNaN f b = false →
      ltF f a b = (decide (orderKey f a < orderKey f b), noFlags) ∧
      eqF f a b = (decide (orderKey f a = orderKey f b), noFlags) ∧
      leF f a b = (decide (orderKey f a ≤ orderKey f b), noFlags)) ∧
    (isNaN f a = true ∨ isNaN f b = true → ltF f a b = (false, flagNV) ∧ leF f a b = (false, flagNV) ∧
      eqF f a b = (false, if isSignaling f a || isSignaling f b then flagNV else noFlags))

/-- min and max of two non-NaN operands are one of them and bound both; one NaN gives the other; minnum2008 differs as R94 says. Rests on: 40_numerics.md R94. -/
def Obligations.MinMaxBoundTheirOperands : Prop :=
  ∀ (w : Nat) (f : Format), isStandard f w → ∀ (env : NumEnv w) (a b : BitVec w),
    (env.minMax = .number →
    (isNaN f a = false → isNaN f b = false →
      ∀ lo hi : BitVec w × FlagSet, lo = minMaxF f env false a b → hi = minMaxF f env true a b →
        lo.2 = noFlags ∧ hi.2 = noFlags ∧ (lo.1 = a ∨ lo.1 = b) ∧ (hi.1 = a ∨ hi.1 = b) ∧
        orderKey f lo.1 ≤ orderKey f a ∧ orderKey f lo.1 ≤ orderKey f b ∧
        orderKey f a ≤ orderKey f hi.1 ∧ orderKey f b ≤ orderKey f hi.1 ∧
        (isZero f a = true → isZero f b = true → a ≠ b → lo.1 = zeroOf f true ∧ hi.1 = zeroOf f false)) ∧
    (isNaN f a = true → isNaN f b = false → ∀ mx,
      minMaxF f env mx a b = (b, if isSignaling f a then flagNV else noFlags) ∧
      minMaxF f env mx b a = (b, if isSignaling f a then flagNV else noFlags)) ∧
    (isNaN f a = true → isNaN f b = true → ∀ mx,
      minMaxF f env mx a b = (env.nan, if isSignaling f a || isSignaling f b then flagNV else noFlags))) ∧
    (env.minMax = .minnum2008 → ∀ mx,
      (isSignaling f a = true ∨ isSignaling f b = true → minMaxF f env mx a b = (env.nan, flagNV)) ∧
      (isZero f a = true → isZero f b = true → a ≠ b →
        minMaxF f env mx a b = (if env.firstZero then a else b, noFlags)) ∧
      (isSignaling f a = false → isSignaling f b = false → ¬(isZero f a = true ∧ isZero f b = true ∧ a ≠ b) →
        minMaxF f env mx a b = minMaxF f { env with minMax := .number } mx a b))

/-- a * 1 and a / 1 are a with no flag, and the fused a * 1 + c is a + c. Rests on: 40_numerics.md R90, R91, R93, R100. -/
def Obligations.MultiplyingByOneIsExact : Prop :=
  ∀ (w : Nat) (f : Format), isStandard f w → ∀ (env : NumEnv w) (m : RoundingMode) (a c : BitVec w),
    (isNaN f a = false → mulF f env m a (oneOf f) = (a, noFlags) ∧ divF f env m a (oneOf f) = (a, noFlags)) ∧
    fmaF f env m a (oneOf f) c false false = addF f env m a c

/-- The square root of a positive finite number is its exact root rounded once, a positive normal number, with NX at most. Rests on: 40_numerics.md R79, R82, R87, R92. -/
def Obligations.SquareRootIsTheRoundedRoot : Prop :=
  ∀ (w : Nat) (f : Format), isStandard f w → ∀ (env : NumEnv w) (a : BitVec w),
    isFinite f a = true → isZero f a = false → signBit f a = false →
    (∀ (m : RoundingMode) (p : BitVec w × FlagSet), p = sqrtF f env m a →
      isFinite f p.1 = true ∧ signBit f p.1 = false ∧ expField f p.1 ≠ 0 ∧ (p.2 = noFlags ∨ p.2 = flagNX) ∧
      (p.2 = noFlags ↔ ((valueOf f p.1).mul (valueOf f p.1)).sameValue (valueOf f a))) ∧
    (∀ d u : BitVec w, d = (sqrtF f env .rdn a).1 → u = (sqrtF f env .rup a).1 →
      ((valueOf f d).mul (valueOf f d)).le (valueOf f a) = true ∧
      (valueOf f a).le ((valueOf f u).mul (valueOf f u)) = true ∧
      ∀ q : BitVec w, isFinite f q = true → signBit f q = false →
        (((valueOf f q).mul (valueOf f q)).le (valueOf f a) = true → numLt f d q = false) ∧
        ((valueOf f a).le ((valueOf f q).mul (valueOf f q)) = true → numLt f q u = false)) ∧
    sqrtF f env .rtz a = sqrtF f env .rdn a ∧
    ∃ (num : Nat) (exp : Int), BinNum.sameValue ⟨num, 2 * exp⟩ (valueOf f a) ∧
      ∀ m, sqrtF f env m a = roundMagnitude f env.tininess m false (.root num exp)

/-- from_int: 0 gives +0; otherwise it rounds; to binary64 it is exact; to binary32 it raises at most NX, exactly when inexact. Stated: R97. -/
def Obligations.IntegersConvertToFloating : Prop :=
  ∀ (tin : Tininess) (m : RoundingMode) (signed : Bool) (v : Word),
    (intOfWord signed v = 0 → (fromIntF binary32 tin m signed v : Word × FlagSet) = (0, noFlags) ∧
      (fromIntF binary64 tin m signed v : DWord × FlagSet) = (0, noFlags)) ∧
    (intOfWord signed v ≠ 0 →
      (fromIntF binary32 tin m signed v : Word × FlagSet) = roundNum binary32 tin m ⟨intOfWord signed v, 0⟩ ∧
      (fromIntF binary64 tin m signed v : DWord × FlagSet) = roundNum binary64 tin m ⟨intOfWord signed v, 0⟩) ∧
    (∀ d : DWord × FlagSet, d = fromIntF binary64 tin m signed v →
      d.2 = noFlags ∧ isFinite binary64 d.1 = true ∧ (valueOf binary64 d.1).sameValue ⟨intOfWord signed v, 0⟩) ∧
    (∀ p : Word × FlagSet, p = fromIntF binary32 tin m signed v →
      isFinite binary32 p.1 = true ∧ (p.2 = noFlags ∨ p.2 = flagNX) ∧
      (p.2 = noFlags ↔ ∃ k e : Nat, k < 2 ^ 24 ∧ (intOfWord signed v).natAbs = k * 2 ^ e) ∧
      ((intOfWord signed v).natAbs ≤ 2 ^ 24 → p.2 = noFlags))

/-- Converting binary32 to binary64 is exact and raises nothing, and converting back restores the pattern. Rests on: 40_numerics.md R98. -/
def Obligations.SingleToDoubleIsExact : Prop :=
  ∀ (e : NumEnv 32) (d : NumEnv 64) (m n : RoundingMode) (a : Word), isNaN binary32 a = false →
    ∀ p : DWord × FlagSet, p = convertF binary32 binary64 d m a →
      p.2 = noFlags ∧ convertF binary64 binary32 e n p.1 = (a, noFlags) ∧
      (isFinite binary32 a = true → isFinite binary64 p.1 = true ∧
        (valueOf binary64 p.1).sameValue (valueOf binary32 a))

/-- to_int delivers the integer the mode rounds the value to, NX exactly when it differs; out of range it saturates with NV alone. Rests on: 40_numerics.md R79, R96. -/
def Obligations.ConversionToIntegerRounds : Prop :=
  ∀ (w : Nat) (f : Format), isStandard f w → ∀ (m : RoundingMode) (signed : Bool) (a : BitVec w) (p : Word × FlagSet),
    p = toIntF f m signed a →
    (isFinite f a = true → ∃ n : Int, roundsToInteger m (valueOf f a) n ∧
      (intLo signed ≤ n → n ≤ intHi signed → intOfWord signed p.1 = n ∧
        (p.2 = noFlags ∨ p.2 = flagNX) ∧ (p.2 = noFlags ↔ BinNum.sameValue ⟨n, 0⟩ (valueOf f a))) ∧
      (intHi signed < n → intOfWord signed p.1 = intHi signed ∧ p.2 = flagNV) ∧
      (n < intLo signed → intOfWord signed p.1 = intLo signed ∧ p.2 = flagNV)) ∧
    (isFinite f a = false → p.2 = flagNV ∧
      intOfWord signed p.1 = if isNaN f a || !signBit f a then intHi signed else intLo signed)

/-- add, sub, mul, fma and conversion never raise DZ; min, max and the comparisons raise NV at most; division raises DZ only for finite nonzero by zero. Rests on: 40_numerics.md R87. -/
def Obligations.FlagsWithinTheTable : Prop :=
  ∀ (w : Nat) (f : Format), isStandard f w → ∀ (env : NumEnv w) (m : RoundingMode) (a b c : BitVec w)
    (np nc mx sgn : Bool),
    (addF f env m a b).2.getLsbD 3 = false ∧ (subF f env m a b).2.getLsbD 3 = false ∧
    (mulF f env m a b).2.getLsbD 3 = false ∧ (fmaF f env m a b c np nc).2.getLsbD 3 = false ∧
    (sqrtF f env m a).2.getLsbD 3 = false ∧
    (∀ (v : Nat) (g : Format) (e : NumEnv v), (convertF f g e m a).2.getLsbD 3 = false) ∧
    (minMaxF f env mx a b).2 &&& flagNV = (minMaxF f env mx a b).2 ∧ (eqF f a b).2 &&& flagNV = (eqF f a b).2 ∧
    (ltF f a b).2 &&& flagNV = (ltF f a b).2 ∧ (leF f a b).2 &&& flagNV = (leF f a b).2 ∧
    (toIntF f m sgn a).2 &&& (flagNV ||| flagNX) = (toIntF f m sgn a).2 ∧
    ((divF f env m a b).2.getLsbD 3 = true ↔ isFinite f a = true ∧ isZero f a = false ∧ isZero f b = true) ∧
    (isFinite f a = true → isZero f a = false → isZero f b = true →
      divF f env m a b = (infOf f (signBit f a ^^ signBit f b), flagDZ))

/-- add, sub, mul, fma and div of finite operands are one rounding of the exact sum, difference, product, fused value and quotient. Rests on: 40_numerics.md R75, R79, R82; 40_numerics.md R89 to R93. -/
def Obligations.FiniteArithmeticRoundsTheExactResult : Prop :=
  ∀ (w : Nat) (f : Format), isStandard f w → ∀ (env : NumEnv w) (m : RoundingMode) (a b c : BitVec w),
    isFinite f a = true → isFinite f b = true →
    (((valueOf f a).add (valueOf f b)).num ≠ 0 →
      addF f env m a b = roundNum f env.tininess m ((valueOf f a).add (valueOf f b))) ∧
    (((valueOf f a).add ((valueOf f b).negIf true)).num ≠ 0 →
      subF f env m a b = roundNum f env.tininess m ((valueOf f a).add ((valueOf f b).negIf true))) ∧
    (isFinite f c = true → ∀ np nc : Bool,
      ((((valueOf f a).mul (valueOf f b)).negIf np).add ((valueOf f c).negIf nc)).num ≠ 0 →
      fmaF f env m a b c np nc = roundNum f env.tininess m
        ((((valueOf f a).mul (valueOf f b)).negIf np).add ((valueOf f c).negIf nc))) ∧
    (isZero f a = false → isZero f b = false →
      mulF f env m a b = roundNum f env.tininess m ((valueOf f a).mul (valueOf f b)) ∧
      divF f env m a b = roundMagnitude f env.tininess m (signBit f a ^^ signBit f b)
        (.ratio (significand f a) (significand f b) (unitExp f a - unitExp f b)) ∧
      ∀ (d u : BitVec w) (dividend divisor : BinNum), d = (divF f env .rdn a b).1 → u = (divF f env .rup a b).1 →
        dividend = (valueOf f a).negIf (signBit f b) → divisor = (valueOf f b).negIf (signBit f b) →
        (isFinite f d = true → ((valueOf f d).mul divisor).le dividend = true) ∧
        (isFinite f u = true → dividend.le ((valueOf f u).mul divisor) = true) ∧
        ∀ q : BitVec w, isFinite f q = true →
          (((valueOf f q).mul divisor).le dividend = true → numLt f d q = false) ∧
          (dividend.le ((valueOf f q).mul divisor) = true → numLt f q u = false))

end
end

