-- ==== Sys2Proof/Laws/Bits.lean ====
section
/-! SUPPORT. Parts of joined bit patterns. -/

namespace Sys2Proof

/-- The low part of two joined patterns. -/
theorem extract_append_low {n m : Nat} (h : BitVec n) (l : BitVec m) : (h ++ l).extractLsb' 0 m = l := by
  apply BitVec.eq_of_getLsbD_eq; intro i hi
  simp only [BitVec.getLsbD_extractLsb', BitVec.getLsbD_append]
  simp only [Nat.zero_add, hi, decide_true, Bool.true_and, if_true]

/-- The high part of two joined patterns. -/
theorem extract_append_high {n m : Nat} (h : BitVec n) (l : BitVec m) : (h ++ l).extractLsb' m n = h := by
  apply BitVec.eq_of_getLsbD_eq; intro i hi
  simp only [BitVec.getLsbD_extractLsb', BitVec.getLsbD_append, hi, decide_true, Bool.true_and,
    show ¬ m + i < m by omega, if_false, Nat.add_sub_cancel_left]

/-- Joining the parts gives the pattern back. -/
theorem append_extract {n m : Nat} (v : BitVec (n + m)) : v.extractLsb' m n ++ v.extractLsb' 0 m = v := by
  apply BitVec.eq_of_getLsbD_eq; intro i hi
  by_cases h : i < m
  · simp only [BitVec.getLsbD_extractLsb', BitVec.getLsbD_append, h, decide_true, Bool.true_and, if_true, Nat.zero_add]
  · simp only [BitVec.getLsbD_extractLsb', BitVec.getLsbD_append, h, if_false, show i - m < n by omega, decide_true,
      Bool.true_and, show m + (i - m) = i by omega]

end Sys2Proof
end

