-- ==== Sys2Proof/Laws/State.lean ====
section
/-! SUPPORT. One lemma per field of the state for each update, and the registers and flags as read after each update. -/

namespace Sys2Proof.Machine

/-! ### `setPc` -/

@[simp] theorem State.setPc_x (s : State) (v : Word) : (s.setPc v).x = s.x := rfl

@[simp] theorem State.setPc_f (s : State) (v : Word) : (s.setPc v).f = s.f := rfl

@[simp] theorem State.setPc_fcsr (s : State) (v : Word) : (s.setPc v).fcsr = s.fcsr := rfl

@[simp] theorem State.setPc_pc (s : State) (v : Word) : (s.setPc v).pc = v := rfl

@[simp] theorem State.setPc_mem (s : State) (v : Word) : (s.setPc v).mem = s.mem := rfl

@[simp] theorem State.setPc_trap (s : State) (v : Word) : (s.setPc v).trap = s.trap := rfl

@[simp] theorem State.setPc_launch (s : State) (v : Word) : (s.setPc v).launch = s.launch := rfl

@[simp] theorem State.setPc_draws (s : State) (v : Word) : (s.setPc v).draws = s.draws := rfl

/-! ### `advance` -/

@[simp] theorem State.advance_x (s : State) : (s.advance).x = s.x := rfl

@[simp] theorem State.advance_f (s : State) : (s.advance).f = s.f := rfl

@[simp] theorem State.advance_fcsr (s : State) : (s.advance).fcsr = s.fcsr := rfl

@[simp] theorem State.advance_pc (s : State) : (s.advance).pc = s.pc + 4 := rfl

@[simp] theorem State.advance_mem (s : State) : (s.advance).mem = s.mem := rfl

@[simp] theorem State.advance_trap (s : State) : (s.advance).trap = s.trap := rfl

@[simp] theorem State.advance_launch (s : State) : (s.advance).launch = s.launch := rfl

@[simp] theorem State.advance_draws (s : State) : (s.advance).draws = s.draws := rfl

/-! ### `setFcsr` -/

@[simp] theorem State.setFcsr_x (s : State) (v : Word) : (s.setFcsr v).x = s.x := rfl

@[simp] theorem State.setFcsr_f (s : State) (v : Word) : (s.setFcsr v).f = s.f := rfl

@[simp] theorem State.setFcsr_fcsr (s : State) (v : Word) : (s.setFcsr v).fcsr = v := rfl

@[simp] theorem State.setFcsr_pc (s : State) (v : Word) : (s.setFcsr v).pc = s.pc := rfl

@[simp] theorem State.setFcsr_mem (s : State) (v : Word) : (s.setFcsr v).mem = s.mem := rfl

@[simp] theorem State.setFcsr_trap (s : State) (v : Word) : (s.setFcsr v).trap = s.trap := rfl

@[simp] theorem State.setFcsr_launch (s : State) (v : Word) : (s.setFcsr v).launch = s.launch := rfl

@[simp] theorem State.setFcsr_draws (s : State) (v : Word) : (s.setFcsr v).draws = s.draws := rfl

/-! ### `setMem` -/

@[simp] theorem State.setMem_x (s : State) (m : Memory) : (s.setMem m).x = s.x := rfl

@[simp] theorem State.setMem_f (s : State) (m : Memory) : (s.setMem m).f = s.f := rfl

@[simp] theorem State.setMem_fcsr (s : State) (m : Memory) : (s.setMem m).fcsr = s.fcsr := rfl

@[simp] theorem State.setMem_pc (s : State) (m : Memory) : (s.setMem m).pc = s.pc := rfl

@[simp] theorem State.setMem_mem (s : State) (m : Memory) : (s.setMem m).mem = m := rfl

@[simp] theorem State.setMem_trap (s : State) (m : Memory) : (s.setMem m).trap = s.trap := rfl

@[simp] theorem State.setMem_launch (s : State) (m : Memory) : (s.setMem m).launch = s.launch := rfl

@[simp] theorem State.setMem_draws (s : State) (m : Memory) : (s.setMem m).draws = s.draws := rfl

/-! ### `writeF` -/

@[simp] theorem State.writeF_x (s : State) (r : FReg) (v : DWord) : (s.writeF r v).x = s.x := rfl

@[simp] theorem State.writeF_f (s : State) (r : FReg) (v : DWord) : (s.writeF r v).f = s.f.set r.toNat v r.isLt := rfl

@[simp] theorem State.writeF_fcsr (s : State) (r : FReg) (v : DWord) : (s.writeF r v).fcsr = s.fcsr := rfl

@[simp] theorem State.writeF_pc (s : State) (r : FReg) (v : DWord) : (s.writeF r v).pc = s.pc := rfl

@[simp] theorem State.writeF_mem (s : State) (r : FReg) (v : DWord) : (s.writeF r v).mem = s.mem := rfl

@[simp] theorem State.writeF_trap (s : State) (r : FReg) (v : DWord) : (s.writeF r v).trap = s.trap := rfl

@[simp] theorem State.writeF_launch (s : State) (r : FReg) (v : DWord) : (s.writeF r v).launch = s.launch := rfl

@[simp] theorem State.writeF_draws (s : State) (r : FReg) (v : DWord) : (s.writeF r v).draws = s.draws := rfl

/-! ### `writeS` -/

@[simp] theorem State.writeS_x (s : State) (r : FReg) (v : Word) : (s.writeS r v).x = s.x := rfl

@[simp] theorem State.writeS_f (s : State) (r : FReg) (v : Word) : (s.writeS r v).f = s.f.set r.toNat (s.upperHalf ++ v) r.isLt := rfl

@[simp] theorem State.writeS_fcsr (s : State) (r : FReg) (v : Word) : (s.writeS r v).fcsr = s.fcsr := rfl

@[simp] theorem State.writeS_pc (s : State) (r : FReg) (v : Word) : (s.writeS r v).pc = s.pc := rfl

@[simp] theorem State.writeS_mem (s : State) (r : FReg) (v : Word) : (s.writeS r v).mem = s.mem := rfl

@[simp] theorem State.writeS_trap (s : State) (r : FReg) (v : Word) : (s.writeS r v).trap = s.trap := rfl

@[simp] theorem State.writeS_launch (s : State) (r : FReg) (v : Word) : (s.writeS r v).launch = s.launch := rfl

@[simp] theorem State.writeS_draws (s : State) (r : FReg) (v : Word) : (s.writeS r v).draws = s.draws := rfl

/-! ### `takeTrap` -/

@[simp] theorem State.takeTrap_x (s : State) (c : Cause) (tv : Option Word) : (s.takeTrap c tv).x = s.x := rfl

@[simp] theorem State.takeTrap_f (s : State) (c : Cause) (tv : Option Word) : (s.takeTrap c tv).f = s.f := rfl

@[simp] theorem State.takeTrap_fcsr (s : State) (c : Cause) (tv : Option Word) : (s.takeTrap c tv).fcsr = s.fcsr := rfl

@[simp] theorem State.takeTrap_pc (s : State) (c : Cause) (tv : Option Word) : (s.takeTrap c tv).pc = s.pc := rfl

@[simp] theorem State.takeTrap_mem (s : State) (c : Cause) (tv : Option Word) : (s.takeTrap c tv).mem = s.mem := rfl

@[simp] theorem State.takeTrap_trap (s : State) (c : Cause) (tv : Option Word) : (s.takeTrap c tv).trap = some ⟨c, tv, s.pc⟩ := rfl

@[simp] theorem State.takeTrap_launch (s : State) (c : Cause) (tv : Option Word) : (s.takeTrap c tv).launch = s.launch := rfl

@[simp] theorem State.takeTrap_draws (s : State) (c : Cause) (tv : Option Word) : (s.takeTrap c tv).draws = s.draws := rfl

/-! ### `accrue` -/

@[simp] theorem State.accrue_x (s : State) (fl : FlagSet) : (s.accrue fl).x = s.x := rfl

@[simp] theorem State.accrue_f (s : State) (fl : FlagSet) : (s.accrue fl).f = s.f := rfl

@[simp] theorem State.accrue_fcsr (s : State) (fl : FlagSet) : (s.accrue fl).fcsr = s.fcsr ||| fl.setWidth 32 := rfl

@[simp] theorem State.accrue_pc (s : State) (fl : FlagSet) : (s.accrue fl).pc = s.pc := rfl

@[simp] theorem State.accrue_mem (s : State) (fl : FlagSet) : (s.accrue fl).mem = s.mem := rfl

@[simp] theorem State.accrue_trap (s : State) (fl : FlagSet) : (s.accrue fl).trap = s.trap := rfl

@[simp] theorem State.accrue_launch (s : State) (fl : FlagSet) : (s.accrue fl).launch = s.launch := rfl

@[simp] theorem State.accrue_draws (s : State) (fl : FlagSet) : (s.accrue fl).draws = s.draws := rfl

/-! ### `countDraw` -/

@[simp] theorem State.countDraw_x (s : State) : (s.countDraw).x = s.x := rfl

@[simp] theorem State.countDraw_f (s : State) : (s.countDraw).f = s.f := rfl

@[simp] theorem State.countDraw_fcsr (s : State) : (s.countDraw).fcsr = s.fcsr := rfl

@[simp] theorem State.countDraw_pc (s : State) : (s.countDraw).pc = s.pc := rfl

@[simp] theorem State.countDraw_mem (s : State) : (s.countDraw).mem = s.mem := rfl

@[simp] theorem State.countDraw_trap (s : State) : (s.countDraw).trap = s.trap := rfl

@[simp] theorem State.countDraw_launch (s : State) : (s.countDraw).launch = s.launch := rfl

@[simp] theorem State.countDraw_draws (s : State) : (s.countDraw).draws = if Params.draws s.launch.params then s.draws + 1 else s.draws := rfl

/-! ### `writeX`: nothing is written for `x0` -/

@[simp] theorem State.writeX_f (s : State) (r : XReg) (v : Word) : (s.writeX r v).f = s.f := by
  unfold State.writeX; split <;> rfl

@[simp] theorem State.writeX_fcsr (s : State) (r : XReg) (v : Word) : (s.writeX r v).fcsr = s.fcsr := by
  unfold State.writeX; split <;> rfl

@[simp] theorem State.writeX_pc (s : State) (r : XReg) (v : Word) : (s.writeX r v).pc = s.pc := by
  unfold State.writeX; split <;> rfl

@[simp] theorem State.writeX_mem (s : State) (r : XReg) (v : Word) : (s.writeX r v).mem = s.mem := by
  unfold State.writeX; split <;> rfl

@[simp] theorem State.writeX_trap (s : State) (r : XReg) (v : Word) : (s.writeX r v).trap = s.trap := by
  unfold State.writeX; split <;> rfl

@[simp] theorem State.writeX_launch (s : State) (r : XReg) (v : Word) : (s.writeX r v).launch = s.launch := by
  unfold State.writeX; split <;> rfl

@[simp] theorem State.writeX_draws (s : State) (r : XReg) (v : Word) : (s.writeX r v).draws = s.draws := by
  unfold State.writeX; split <;> rfl

@[simp] theorem State.writeX_zero (s : State) (v : Word) : s.writeX 0#5 v = s := rfl

theorem State.writeX_x (s : State) {r : XReg} (h : r ≠ 0) (v : Word) :
    (s.writeX r v).x = s.x.set r.toNat v r.isLt := by
  unfold State.writeX; rw [if_neg h]

/-! ### `writeCsr` writes `fcsr` alone -/

@[simp] theorem State.writeCsr_x (s : State) (c : Csr) (v : Word) : (s.writeCsr c v).x = s.x := by
  cases c <;> rfl

@[simp] theorem State.writeCsr_f (s : State) (c : Csr) (v : Word) : (s.writeCsr c v).f = s.f := by
  cases c <;> rfl

@[simp] theorem State.writeCsr_pc (s : State) (c : Csr) (v : Word) : (s.writeCsr c v).pc = s.pc := by
  cases c <;> rfl

@[simp] theorem State.writeCsr_mem (s : State) (c : Csr) (v : Word) : (s.writeCsr c v).mem = s.mem := by
  cases c <;> rfl

@[simp] theorem State.writeCsr_trap (s : State) (c : Csr) (v : Word) : (s.writeCsr c v).trap = s.trap := by
  cases c <;> rfl

@[simp] theorem State.writeCsr_launch (s : State) (c : Csr) (v : Word) : (s.writeCsr c v).launch = s.launch := by
  cases c <;> rfl

@[simp] theorem State.writeCsr_draws (s : State) (c : Csr) (v : Word) : (s.writeCsr c v).draws = s.draws := by
  cases c <;> rfl

/-! ### Registers as read -/

/-- Two 5-bit numbers name the same slot only when equal. -/
theorem regs_ne {r q : BitVec 5} (h : r ≠ q) : q.toNat ≠ r.toNat := fun e => h (BitVec.eq_of_toNat_eq e.symm)

@[simp] theorem State.readX_zero (s : State) : s.readX 0#5 = 0 := rfl

/-- A write to an x register, as read (10_state.md R23). -/
theorem State.readX_writeX (s : State) (rd r : XReg) (v : Word) :
    (s.writeX rd v).readX r = if r = rd ∧ r ≠ 0 then v else s.readX r := by
  by_cases hz : rd = 0
  · subst hz
    rw [if_neg (fun h => h.2 h.1)]
    rfl
  · by_cases hr : r = 0
    · subst hr
      rw [if_neg (fun h => h.2 rfl)]
      rfl
    · unfold State.readX
      rw [if_neg hr, if_neg hr]
      by_cases e : r = rd
      · subst e
        rw [if_pos ⟨rfl, hr⟩]
        simp only [State.writeX_x s hz, Vector.getElem_set_self]
      · simp only [State.writeX_x s hz, Vector.getElem_set_ne _ _ (regs_ne e)]; rw [if_neg (fun h => e h.1)]

/-- A write to an f register, as read (10_state.md R16, R21). -/
theorem State.readF_writeF (s : State) (rd r : FReg) (v : DWord) :
    (s.writeF rd v).readF r = if r = rd then v else s.readF r := by
  by_cases e : r = rd
  · subst e; simp [State.readF]
  · simp [State.readF, e, regs_ne e]

/-- A single-precision write, as read (10_state.md R20). -/
theorem State.readF_writeS (s : State) (rd r : FReg) (v : Word) :
    (s.writeS rd v).readF r = if r = rd then s.upperHalf ++ v else s.readF r :=
  s.readF_writeF rd r (s.upperHalf ++ v)

/-- Reading an x register sees the register file alone. -/
theorem State.readX_congr {s t : State} (h : t.x = s.x) (r : XReg) : t.readX r = s.readX r := by
  simp [State.readX, h]

/-- Reading an f register sees the register file alone. -/
theorem State.readF_congr {s t : State} (h : t.f = s.f) (r : FReg) : t.readF r = s.readF r := by
  simp [State.readF, h]

@[simp] theorem State.readX_setPc (s : State) (v : Word) (q : XReg) : (s.setPc v).readX q = s.readX q := rfl

@[simp] theorem State.readF_setPc (s : State) (v : Word) (q : FReg) : (s.setPc v).readF q = s.readF q := rfl

@[simp] theorem State.readX_advance (s : State) (q : XReg) : (s.advance).readX q = s.readX q := rfl

@[simp] theorem State.readF_advance (s : State) (q : FReg) : (s.advance).readF q = s.readF q := rfl

@[simp] theorem State.readX_setFcsr (s : State) (v : Word) (q : XReg) : (s.setFcsr v).readX q = s.readX q := rfl

@[simp] theorem State.readF_setFcsr (s : State) (v : Word) (q : FReg) : (s.setFcsr v).readF q = s.readF q := rfl

@[simp] theorem State.readX_setMem (s : State) (m : Memory) (q : XReg) : (s.setMem m).readX q = s.readX q := rfl

@[simp] theorem State.readF_setMem (s : State) (m : Memory) (q : FReg) : (s.setMem m).readF q = s.readF q := rfl

@[simp] theorem State.readX_writeF (s : State) (r : FReg) (v : DWord) (q : XReg) : (s.writeF r v).readX q = s.readX q := rfl

@[simp] theorem State.readX_writeS (s : State) (r : FReg) (v : Word) (q : XReg) : (s.writeS r v).readX q = s.readX q := rfl

@[simp] theorem State.readX_takeTrap (s : State) (c : Cause) (tv : Option Word) (q : XReg) : (s.takeTrap c tv).readX q = s.readX q := rfl

@[simp] theorem State.readF_takeTrap (s : State) (c : Cause) (tv : Option Word) (q : FReg) : (s.takeTrap c tv).readF q = s.readF q := rfl

@[simp] theorem State.readX_accrue (s : State) (fl : FlagSet) (q : XReg) : (s.accrue fl).readX q = s.readX q := rfl

@[simp] theorem State.readF_accrue (s : State) (fl : FlagSet) (q : FReg) : (s.accrue fl).readF q = s.readF q := rfl

@[simp] theorem State.readX_countDraw (s : State) (q : XReg) : (s.countDraw).readX q = s.readX q := rfl

@[simp] theorem State.readF_countDraw (s : State) (q : FReg) : (s.countDraw).readF q = s.readF q := rfl

@[simp] theorem State.readF_writeX (s : State) (r : XReg) (v : Word) (q : FReg) :
    (s.writeX r v).readF q = s.readF q := State.readF_congr (s.writeX_f r v) q

@[simp] theorem State.readX_writeCsr (s : State) (c : Csr) (v : Word) (q : XReg) :
    (s.writeCsr c v).readX q = s.readX q := State.readX_congr (s.writeCsr_x c v) q

@[simp] theorem State.readF_writeCsr (s : State) (c : Csr) (v : Word) (q : FReg) :
    (s.writeCsr c v).readF q = s.readF q := State.readF_congr (s.writeCsr_f c v) q

/-! ### The halves of a doubleword -/

@[simp] theorem lowHalf_append (h l : Word) : lowHalf (h ++ l) = l := extract_append_low h l

@[simp] theorem highHalf_append (h l : Word) : highHalf (h ++ l) = h := extract_append_high h l

theorem append_halves (v : DWord) : highHalf v ++ lowHalf v = v := append_extract (n := 32) (m := 32) v

/-! ### Flags and rounding mode as read -/

@[simp] theorem State.fflags_accrue (s : State) (fl : FlagSet) : (s.accrue fl).fflags = s.fflags ||| fl := by
  apply BitVec.eq_of_getLsbD_eq; intro i hi
  simp [State.fflags, hi, show i < 32 by omega]

@[simp] theorem State.frm_accrue (s : State) (fl : FlagSet) : (s.accrue fl).frm = s.frm := by
  apply BitVec.eq_of_getLsbD_eq; intro i hi
  simp [State.frm, hi]

theorem State.upper_accrue (s : State) (fl : FlagSet) :
    (s.accrue fl).fcsr.extractLsb' 8 24 = s.fcsr.extractLsb' 8 24 := by
  apply BitVec.eq_of_getLsbD_eq; intro i hi
  simp only [State.accrue_fcsr, BitVec.getLsbD_extractLsb', BitVec.getLsbD_or, BitVec.getLsbD_setWidth,
    BitVec.getLsbD_of_ge fl (8 + i) (by omega), Bool.and_false, Bool.or_false]

/-- What `accrue` does to `fcsr` (10_state.md R29). -/
theorem State.accrued_accrue (s : State) (fl : FlagSet) :
    (s.accrue fl).fflags = s.fflags ||| fl ∧ (s.accrue fl).frm = s.frm ∧
      (s.accrue fl).fcsr.extractLsb' 8 24 = s.fcsr.extractLsb' 8 24 :=
  ⟨s.fflags_accrue fl, s.frm_accrue fl, s.upper_accrue fl⟩

end Sys2Proof.Machine
end

