-- ==== Sys2Proof/Laws/Encoding.lean ====
section
/-! SUPPORT. The bits, fields and masked patterns of the seven encoding formats. -/

namespace Sys2Proof

/-! ### Bits of each format (30_encoding.md R53 to R56; 47_base_subset.md R168) -/

theorem getLsbD_encodeR (f7 : BitVec 7) (rs2 rs1 : BitVec 5) (f3 : BitVec 3) (rd : BitVec 5) (op : BitVec 7) (i : Nat) :
    (encodeR f7 rs2 rs1 f3 rd op).getLsbD i =
      if i < 7 then op.getLsbD i else if i < 12 then rd.getLsbD (i - 7) else if i < 15 then f3.getLsbD (i - 12)
      else if i < 20 then rs1.getLsbD (i - 15) else if i < 25 then rs2.getLsbD (i - 20) else f7.getLsbD (i - 25) := by
  show (f7 ++ rs2 ++ rs1 ++ f3 ++ rd ++ op : BitVec (7 + 5 + 5 + 3 + 5 + 7)).getLsbD i = _
  simp only [BitVec.getLsbD_append]
  split_ifs <;> first | rfl | omega

theorem getLsbD_encodeR4 (rs3 : BitVec 5) (fmt : BitVec 2) (rs2 rs1 : BitVec 5) (rm : BitVec 3) (rd : BitVec 5)
    (op : BitVec 7) (i : Nat) :
    (encodeR4 rs3 fmt rs2 rs1 rm rd op).getLsbD i =
      if i < 7 then op.getLsbD i else if i < 12 then rd.getLsbD (i - 7) else if i < 15 then rm.getLsbD (i - 12)
      else if i < 20 then rs1.getLsbD (i - 15) else if i < 25 then rs2.getLsbD (i - 20)
      else if i < 27 then fmt.getLsbD (i - 25) else rs3.getLsbD (i - 27) := by
  show (rs3 ++ fmt ++ rs2 ++ rs1 ++ rm ++ rd ++ op : BitVec (5 + 2 + 5 + 5 + 3 + 5 + 7)).getLsbD i = _
  simp only [BitVec.getLsbD_append]
  split_ifs <;> first | rfl | omega

theorem getLsbD_encodeI (imm : BitVec 12) (rs1 : BitVec 5) (f3 : BitVec 3) (rd : BitVec 5) (op : BitVec 7) (i : Nat) :
    (encodeI imm rs1 f3 rd op).getLsbD i =
      if i < 7 then op.getLsbD i else if i < 12 then rd.getLsbD (i - 7) else if i < 15 then f3.getLsbD (i - 12)
      else if i < 20 then rs1.getLsbD (i - 15) else imm.getLsbD (i - 20) := by
  show (imm ++ rs1 ++ f3 ++ rd ++ op : BitVec (12 + 5 + 3 + 5 + 7)).getLsbD i = _
  simp only [BitVec.getLsbD_append]
  split_ifs <;> first | rfl | omega

theorem getLsbD_encodeU (imm : BitVec 20) (rd : BitVec 5) (op : BitVec 7) (i : Nat) :
    (encodeU imm rd op).getLsbD i =
      if i < 7 then op.getLsbD i else if i < 12 then rd.getLsbD (i - 7) else imm.getLsbD (i - 12) := by
  show (imm ++ rd ++ op : BitVec (20 + 5 + 7)).getLsbD i = _
  simp only [BitVec.getLsbD_append]
  split_ifs <;> first | rfl | omega

/-- Format S is format R with the immediate in place of `funct7` and `rd`. -/
theorem encodeS_eq (imm : BitVec 12) (rs2 rs1 : BitVec 5) (f3 : BitVec 3) (op : BitVec 7) :
    encodeS imm rs2 rs1 f3 op = encodeR (imm.extractLsb' 5 7) rs2 rs1 f3 (imm.extractLsb' 0 5) op := rfl

/-- Format J is format U with the offset's bits in place of the immediate. -/
theorem encodeJ_eq (off : BitVec 21) (rd : BitVec 5) (op : BitVec 7) :
    encodeJ off rd op = encodeU (off.extractLsb' 20 1 ++ off.extractLsb' 1 10 ++ off.extractLsb' 11 1 ++
      off.extractLsb' 12 8) rd op := rfl

/-- Format B is format R with the offset's bits in place of `funct7` and `rd`. -/
theorem encodeB_eq (off : BitVec 13) (rs2 rs1 : BitVec 5) (f3 : BitVec 3) (op : BitVec 7) :
    encodeB off rs2 rs1 f3 op = encodeR (off.extractLsb' 12 1 ++ off.extractLsb' 5 6) rs2 rs1 f3
      (off.extractLsb' 1 4 ++ off.extractLsb' 11 1) op := by
  apply BitVec.eq_of_getLsbD_eq; intro i _
  rw [getLsbD_encodeR]
  show (off.extractLsb' 12 1 ++ off.extractLsb' 5 6 ++ rs2 ++ rs1 ++ f3 ++ off.extractLsb' 1 4 ++ off.extractLsb' 11 1 ++
    op : BitVec (1 + 6 + 5 + 5 + 3 + 4 + 1 + 7)).getLsbD i = _
  rw [show (off.extractLsb' 1 4 ++ off.extractLsb' 11 1 : BitVec 5).getLsbD (i - 7) =
    (off.extractLsb' 1 4 ++ off.extractLsb' 11 1 : BitVec (4 + 1)).getLsbD (i - 7) from rfl,
    show (off.extractLsb' 12 1 ++ off.extractLsb' 5 6 : BitVec 7).getLsbD (i - 25) =
    (off.extractLsb' 12 1 ++ off.extractLsb' 5 6 : BitVec (1 + 6)).getLsbD (i - 25) from rfl]
  simp only [BitVec.getLsbD_append]
  split_ifs <;> first | rfl | omega

/-! ### Fields of each format -/

@[simp] theorem opcodeField_encodeR (f7 : BitVec 7) (rs2 rs1 : BitVec 5) (f3 : BitVec 3) (rd : BitVec 5) (op : BitVec 7) :
    opcodeField (encodeR f7 rs2 rs1 f3 rd op) = op := by
  apply BitVec.eq_of_getLsbD_eq; intro i hi
  simp only [opcodeField, BitVec.getLsbD_extractLsb', hi, decide_true, Bool.true_and, getLsbD_encodeR]
  split_ifs <;> first | omega | (congr 1; omega)

@[simp] theorem rdField_encodeR (f7 : BitVec 7) (rs2 rs1 : BitVec 5) (f3 : BitVec 3) (rd : BitVec 5) (op : BitVec 7) :
    rdField (encodeR f7 rs2 rs1 f3 rd op) = rd := by
  apply BitVec.eq_of_getLsbD_eq; intro i hi
  simp only [rdField, BitVec.getLsbD_extractLsb', hi, decide_true, Bool.true_and, getLsbD_encodeR]
  split_ifs <;> first | omega | (congr 1; omega)

@[simp] theorem funct3Field_encodeR (f7 : BitVec 7) (rs2 rs1 : BitVec 5) (f3 : BitVec 3) (rd : BitVec 5) (op : BitVec 7) :
    funct3Field (encodeR f7 rs2 rs1 f3 rd op) = f3 := by
  apply BitVec.eq_of_getLsbD_eq; intro i hi
  simp only [funct3Field, BitVec.getLsbD_extractLsb', hi, decide_true, Bool.true_and, getLsbD_encodeR]
  split_ifs <;> first | omega | (congr 1; omega)

@[simp] theorem rs1Field_encodeR (f7 : BitVec 7) (rs2 rs1 : BitVec 5) (f3 : BitVec 3) (rd : BitVec 5) (op : BitVec 7) :
    rs1Field (encodeR f7 rs2 rs1 f3 rd op) = rs1 := by
  apply BitVec.eq_of_getLsbD_eq; intro i hi
  simp only [rs1Field, BitVec.getLsbD_extractLsb', hi, decide_true, Bool.true_and, getLsbD_encodeR]
  split_ifs <;> first | omega | (congr 1; omega)

@[simp] theorem rs2Field_encodeR (f7 : BitVec 7) (rs2 rs1 : BitVec 5) (f3 : BitVec 3) (rd : BitVec 5) (op : BitVec 7) :
    rs2Field (encodeR f7 rs2 rs1 f3 rd op) = rs2 := by
  apply BitVec.eq_of_getLsbD_eq; intro i hi
  simp only [rs2Field, BitVec.getLsbD_extractLsb', hi, decide_true, Bool.true_and, getLsbD_encodeR]
  split_ifs <;> first | omega | (congr 1; omega)

@[simp] theorem opcodeField_encodeR4 (rs3 : BitVec 5) (fmt : BitVec 2) (rs2 rs1 : BitVec 5) (rm : BitVec 3) (rd : BitVec 5)
    (op : BitVec 7) :
    opcodeField (encodeR4 rs3 fmt rs2 rs1 rm rd op) = op := by
  apply BitVec.eq_of_getLsbD_eq; intro i hi
  simp only [opcodeField, BitVec.getLsbD_extractLsb', hi, decide_true, Bool.true_and, getLsbD_encodeR4]
  split_ifs <;> first | omega | (congr 1; omega)

@[simp] theorem rdField_encodeR4 (rs3 : BitVec 5) (fmt : BitVec 2) (rs2 rs1 : BitVec 5) (rm : BitVec 3) (rd : BitVec 5)
    (op : BitVec 7) :
    rdField (encodeR4 rs3 fmt rs2 rs1 rm rd op) = rd := by
  apply BitVec.eq_of_getLsbD_eq; intro i hi
  simp only [rdField, BitVec.getLsbD_extractLsb', hi, decide_true, Bool.true_and, getLsbD_encodeR4]
  split_ifs <;> first | omega | (congr 1; omega)

@[simp] theorem funct3Field_encodeR4 (rs3 : BitVec 5) (fmt : BitVec 2) (rs2 rs1 : BitVec 5) (rm : BitVec 3) (rd : BitVec 5)
    (op : BitVec 7) :
    funct3Field (encodeR4 rs3 fmt rs2 rs1 rm rd op) = rm := by
  apply BitVec.eq_of_getLsbD_eq; intro i hi
  simp only [funct3Field, BitVec.getLsbD_extractLsb', hi, decide_true, Bool.true_and, getLsbD_encodeR4]
  split_ifs <;> first | omega | (congr 1; omega)

@[simp] theorem rs1Field_encodeR4 (rs3 : BitVec 5) (fmt : BitVec 2) (rs2 rs1 : BitVec 5) (rm : BitVec 3) (rd : BitVec 5)
    (op : BitVec 7) :
    rs1Field (encodeR4 rs3 fmt rs2 rs1 rm rd op) = rs1 := by
  apply BitVec.eq_of_getLsbD_eq; intro i hi
  simp only [rs1Field, BitVec.getLsbD_extractLsb', hi, decide_true, Bool.true_and, getLsbD_encodeR4]
  split_ifs <;> first | omega | (congr 1; omega)

@[simp] theorem rs2Field_encodeR4 (rs3 : BitVec 5) (fmt : BitVec 2) (rs2 rs1 : BitVec 5) (rm : BitVec 3) (rd : BitVec 5)
    (op : BitVec 7) :
    rs2Field (encodeR4 rs3 fmt rs2 rs1 rm rd op) = rs2 := by
  apply BitVec.eq_of_getLsbD_eq; intro i hi
  simp only [rs2Field, BitVec.getLsbD_extractLsb', hi, decide_true, Bool.true_and, getLsbD_encodeR4]
  split_ifs <;> first | omega | (congr 1; omega)

@[simp] theorem rs3Field_encodeR4 (rs3 : BitVec 5) (fmt : BitVec 2) (rs2 rs1 : BitVec 5) (rm : BitVec 3) (rd : BitVec 5)
    (op : BitVec 7) :
    rs3Field (encodeR4 rs3 fmt rs2 rs1 rm rd op) = rs3 := by
  apply BitVec.eq_of_getLsbD_eq; intro i hi
  simp only [rs3Field, BitVec.getLsbD_extractLsb', hi, decide_true, Bool.true_and, getLsbD_encodeR4]
  split_ifs <;> first | omega | (congr 1; omega)

@[simp] theorem opcodeField_encodeI (imm : BitVec 12) (rs1 : BitVec 5) (f3 : BitVec 3) (rd : BitVec 5) (op : BitVec 7) :
    opcodeField (encodeI imm rs1 f3 rd op) = op := by
  apply BitVec.eq_of_getLsbD_eq; intro i hi
  simp only [opcodeField, BitVec.getLsbD_extractLsb', hi, decide_true, Bool.true_and, getLsbD_encodeI]
  split_ifs <;> first | omega | (congr 1; omega)

@[simp] theorem rdField_encodeI (imm : BitVec 12) (rs1 : BitVec 5) (f3 : BitVec 3) (rd : BitVec 5) (op : BitVec 7) :
    rdField (encodeI imm rs1 f3 rd op) = rd := by
  apply BitVec.eq_of_getLsbD_eq; intro i hi
  simp only [rdField, BitVec.getLsbD_extractLsb', hi, decide_true, Bool.true_and, getLsbD_encodeI]
  split_ifs <;> first | omega | (congr 1; omega)

@[simp] theorem funct3Field_encodeI (imm : BitVec 12) (rs1 : BitVec 5) (f3 : BitVec 3) (rd : BitVec 5) (op : BitVec 7) :
    funct3Field (encodeI imm rs1 f3 rd op) = f3 := by
  apply BitVec.eq_of_getLsbD_eq; intro i hi
  simp only [funct3Field, BitVec.getLsbD_extractLsb', hi, decide_true, Bool.true_and, getLsbD_encodeI]
  split_ifs <;> first | omega | (congr 1; omega)

@[simp] theorem rs1Field_encodeI (imm : BitVec 12) (rs1 : BitVec 5) (f3 : BitVec 3) (rd : BitVec 5) (op : BitVec 7) :
    rs1Field (encodeI imm rs1 f3 rd op) = rs1 := by
  apply BitVec.eq_of_getLsbD_eq; intro i hi
  simp only [rs1Field, BitVec.getLsbD_extractLsb', hi, decide_true, Bool.true_and, getLsbD_encodeI]
  split_ifs <;> first | omega | (congr 1; omega)

@[simp] theorem immI_encodeI (imm : BitVec 12) (rs1 : BitVec 5) (f3 : BitVec 3) (rd : BitVec 5) (op : BitVec 7) :
    immI (encodeI imm rs1 f3 rd op) = imm := by
  apply BitVec.eq_of_getLsbD_eq; intro i hi
  simp only [immI, BitVec.getLsbD_extractLsb', hi, decide_true, Bool.true_and, getLsbD_encodeI]
  split_ifs <;> first | omega | (congr 1; omega)

@[simp] theorem opcodeField_encodeU (imm : BitVec 20) (rd : BitVec 5) (op : BitVec 7) :
    opcodeField (encodeU imm rd op) = op := by
  apply BitVec.eq_of_getLsbD_eq; intro i hi
  simp only [opcodeField, BitVec.getLsbD_extractLsb', hi, decide_true, Bool.true_and, getLsbD_encodeU]
  split_ifs <;> first | omega | (congr 1; omega)

@[simp] theorem rdField_encodeU (imm : BitVec 20) (rd : BitVec 5) (op : BitVec 7) :
    rdField (encodeU imm rd op) = rd := by
  apply BitVec.eq_of_getLsbD_eq; intro i hi
  simp only [rdField, BitVec.getLsbD_extractLsb', hi, decide_true, Bool.true_and, getLsbD_encodeU]
  split_ifs <;> first | omega | (congr 1; omega)

@[simp] theorem immU_encodeU (imm : BitVec 20) (rd : BitVec 5) (op : BitVec 7) :
    immU (encodeU imm rd op) = imm := by
  apply BitVec.eq_of_getLsbD_eq; intro i hi
  simp only [immU, BitVec.getLsbD_extractLsb', hi, decide_true, Bool.true_and, getLsbD_encodeU]
  split_ifs <;> first | omega | (congr 1; omega)

@[simp] theorem immS_encodeS (imm : BitVec 12) (rs2 rs1 : BitVec 5) (f3 : BitVec 3) (op : BitVec 7) :
    immS (encodeS imm rs2 rs1 f3 op) = imm := by
  have h1 : (encodeS imm rs2 rs1 f3 op).extractLsb' 25 7 = imm.extractLsb' 5 7 := by
    apply BitVec.eq_of_getLsbD_eq; intro i hi
    simp only [encodeS_eq, BitVec.getLsbD_extractLsb', hi, decide_true, Bool.true_and, getLsbD_encodeR]
    split_ifs <;> first | omega | simp only [show 25 + i - 25 = i by omega, hi, decide_true, Bool.true_and]
  have h2 : (encodeS imm rs2 rs1 f3 op).extractLsb' 7 5 = imm.extractLsb' 0 5 := rdField_encodeR ..
  rw [immS, h1, h2]
  exact append_extract (n := 7) (m := 5) imm

/-- The bits of a B offset in the word, read back (47_base_subset.md R168). -/
theorem immB_encodeB (off : BitVec 13) (rs2 rs1 : BitVec 5) (f3 : BitVec 3) (op : BitVec 7)
    (h : off.getLsbD 0 = false) : immB (encodeB off rs2 rs1 f3 op) = off := by
  apply BitVec.eq_of_getLsbD_eq; intro i hi
  rw [encodeB_eq]
  show ((encodeR _ rs2 rs1 f3 _ op).extractLsb' 31 1 ++ (encodeR _ rs2 rs1 f3 _ op).extractLsb' 7 1 ++
    (encodeR _ rs2 rs1 f3 _ op).extractLsb' 25 6 ++ (encodeR _ rs2 rs1 f3 _ op).extractLsb' 8 4 ++ (0 : BitVec 1) :
    BitVec (1 + 1 + 6 + 4 + 1)).getLsbD i = _
  simp only [BitVec.getLsbD_append, BitVec.getLsbD_extractLsb', getLsbD_encodeR]
  interval_cases i <;> first | exact h.symm | simp

/-- The bits of a J offset in the word, read back (47_base_subset.md R168). -/
theorem immJ_encodeJ (off : BitVec 21) (rd : BitVec 5) (op : BitVec 7) (h : off.getLsbD 0 = false) :
    immJ (encodeJ off rd op) = off := by
  apply BitVec.eq_of_getLsbD_eq; intro i hi
  rw [encodeJ_eq]
  show ((encodeU _ rd op).extractLsb' 31 1 ++ (encodeU _ rd op).extractLsb' 12 8 ++ (encodeU _ rd op).extractLsb' 20 1 ++
    (encodeU _ rd op).extractLsb' 21 10 ++ (0 : BitVec 1) : BitVec (1 + 8 + 1 + 10 + 1)).getLsbD i = _
  simp only [BitVec.getLsbD_append, BitVec.getLsbD_extractLsb', getLsbD_encodeU]
  interval_cases i <;> first | exact h.symm | simp

@[simp] theorem opcodeField_encodeS (imm : BitVec 12) (rs2 rs1 : BitVec 5) (f3 : BitVec 3) (op : BitVec 7) :
    opcodeField (encodeS imm rs2 rs1 f3 op) = op := by rw [encodeS_eq, opcodeField_encodeR]

@[simp] theorem opcodeField_encodeB (off : BitVec 13) (rs2 rs1 : BitVec 5) (f3 : BitVec 3) (op : BitVec 7) :
    opcodeField (encodeB off rs2 rs1 f3 op) = op := by rw [encodeB_eq, opcodeField_encodeR]

@[simp] theorem funct3Field_encodeS (imm : BitVec 12) (rs2 rs1 : BitVec 5) (f3 : BitVec 3) (op : BitVec 7) :
    funct3Field (encodeS imm rs2 rs1 f3 op) = f3 := by rw [encodeS_eq, funct3Field_encodeR]

@[simp] theorem funct3Field_encodeB (off : BitVec 13) (rs2 rs1 : BitVec 5) (f3 : BitVec 3) (op : BitVec 7) :
    funct3Field (encodeB off rs2 rs1 f3 op) = f3 := by rw [encodeB_eq, funct3Field_encodeR]

@[simp] theorem rs1Field_encodeS (imm : BitVec 12) (rs2 rs1 : BitVec 5) (f3 : BitVec 3) (op : BitVec 7) :
    rs1Field (encodeS imm rs2 rs1 f3 op) = rs1 := by rw [encodeS_eq, rs1Field_encodeR]

@[simp] theorem rs1Field_encodeB (off : BitVec 13) (rs2 rs1 : BitVec 5) (f3 : BitVec 3) (op : BitVec 7) :
    rs1Field (encodeB off rs2 rs1 f3 op) = rs1 := by rw [encodeB_eq, rs1Field_encodeR]

@[simp] theorem rs2Field_encodeS (imm : BitVec 12) (rs2 rs1 : BitVec 5) (f3 : BitVec 3) (op : BitVec 7) :
    rs2Field (encodeS imm rs2 rs1 f3 op) = rs2 := by rw [encodeS_eq, rs2Field_encodeR]

@[simp] theorem rs2Field_encodeB (off : BitVec 13) (rs2 rs1 : BitVec 5) (f3 : BitVec 3) (op : BitVec 7) :
    rs2Field (encodeB off rs2 rs1 f3 op) = rs2 := by rw [encodeB_eq, rs2Field_encodeR]

@[simp] theorem opcodeField_encodeJ (off : BitVec 21) (rd : BitVec 5) (op : BitVec 7) :
    opcodeField (encodeJ off rd op) = op := by rw [encodeJ_eq, opcodeField_encodeU]

@[simp] theorem rdField_encodeJ (off : BitVec 21) (rd : BitVec 5) (op : BitVec 7) :
    rdField (encodeJ off rd op) = rd := by rw [encodeJ_eq, rdField_encodeU]

/-! ### Masked patterns -/

theorem encodeR_and (f7 : BitVec 7) (rs2 rs1 : BitVec 5) (f3 : BitVec 3) (rd : BitVec 5) (op : BitVec 7)
    (f7' : BitVec 7) (rs2' rs1' : BitVec 5) (f3' : BitVec 3) (rd' : BitVec 5) (op' : BitVec 7) :
    encodeR f7 rs2 rs1 f3 rd op &&& encodeR f7' rs2' rs1' f3' rd' op' =
      encodeR (f7 &&& f7') (rs2 &&& rs2') (rs1 &&& rs1') (f3 &&& f3') (rd &&& rd') (op &&& op') := by
  apply BitVec.eq_of_getLsbD_eq; intro i _
  simp only [BitVec.getLsbD_and, getLsbD_encodeR]
  split_ifs <;> rfl

theorem encodeR4_and (rs3 : BitVec 5) (fmt : BitVec 2) (rs2 rs1 : BitVec 5) (rm : BitVec 3) (rd : BitVec 5)
    (op : BitVec 7)
    (rs3' : BitVec 5) (fmt' : BitVec 2) (rs2' rs1' : BitVec 5) (rm' : BitVec 3) (rd' : BitVec 5)
    (op' : BitVec 7) :
    encodeR4 rs3 fmt rs2 rs1 rm rd op &&& encodeR4 rs3' fmt' rs2' rs1' rm' rd' op' =
      encodeR4 (rs3 &&& rs3') (fmt &&& fmt') (rs2 &&& rs2') (rs1 &&& rs1') (rm &&& rm') (rd &&& rd') (op &&& op') := by
  apply BitVec.eq_of_getLsbD_eq; intro i _
  simp only [BitVec.getLsbD_and, getLsbD_encodeR4]
  split_ifs <;> rfl

theorem encodeI_and (imm : BitVec 12) (rs1 : BitVec 5) (f3 : BitVec 3) (rd : BitVec 5) (op : BitVec 7)
    (imm' : BitVec 12) (rs1' : BitVec 5) (f3' : BitVec 3) (rd' : BitVec 5) (op' : BitVec 7) :
    encodeI imm rs1 f3 rd op &&& encodeI imm' rs1' f3' rd' op' =
      encodeI (imm &&& imm') (rs1 &&& rs1') (f3 &&& f3') (rd &&& rd') (op &&& op') := by
  apply BitVec.eq_of_getLsbD_eq; intro i _
  simp only [BitVec.getLsbD_and, getLsbD_encodeI]
  split_ifs <;> rfl

theorem encodeU_and (imm : BitVec 20) (rd : BitVec 5) (op : BitVec 7)
    (imm' : BitVec 20) (rd' : BitVec 5) (op' : BitVec 7) :
    encodeU imm rd op &&& encodeU imm' rd' op' =
      encodeU (imm &&& imm') (rd &&& rd') (op &&& op') := by
  apply BitVec.eq_of_getLsbD_eq; intro i _
  simp only [BitVec.getLsbD_and, getLsbD_encodeU]
  split_ifs <;> rfl

end Sys2Proof
end

