-- ==== Sys2Proof/Laws/Memory.lean ====
section
/-! SUPPORT. What every memory operation does to the bytes read, and that each keeps the canonical form. -/

namespace Sys2Proof.Machine

/-! ### Reading after an erasure, an insertion, a byte store -/

theorem Memory.read_erase (m : Memory) (a b : Nat) :
    Memory.read (Memory.erase m a) b = if b = a then unlistedByte else Memory.read m b := by
  induction m with
  | nil => simp [Memory.erase, Memory.read]
  | cons e rest ih =>
    obtain ⟨k, v⟩ := e
    by_cases hk : k = a
    · subst hk
      simp only [Memory.erase, if_true, ih, Memory.read]
      by_cases hb : b = k
      · simp [hb]
      · have : ¬ k = b := fun h => hb h.symm
        simp [hb, this]
    · simp only [Memory.erase, hk, if_false, Memory.read, ih]
      by_cases hb : b = a
      · subst hb; simp [hk]
      · simp [hb]

/-- No entry is listed for `a`. -/
def Memory.free (m : Memory) (a : Nat) : Prop := ∀ e ∈ m, e.1 ≠ a

theorem Memory.free_erase (m : Memory) (a : Nat) : Memory.free (Memory.erase m a) a := by
  induction m with
  | nil => simp [Memory.erase, Memory.free]
  | cons e rest ih =>
    obtain ⟨k, v⟩ := e
    by_cases hk : k = a
    · simp only [Memory.erase, hk, if_true]; exact ih
    · simp only [Memory.erase, hk, if_false]
      intro e he
      rcases List.mem_cons.mp he with rfl | he
      · exact hk
      · exact ih e he

theorem Memory.read_insert (m : Memory) (a : Nat) (v : Byte) (h : Memory.free m a) (b : Nat) :
    Memory.read (Memory.insert m a v) b = if b = a then v else Memory.read m b := by
  induction m with
  | nil =>
    by_cases hb : b = a
    · simp [Memory.insert, Memory.read, hb]
    · have : ¬ a = b := fun h => hb h.symm
      simp [Memory.insert, Memory.read, hb, this]
  | cons e rest ih =>
    obtain ⟨k, w⟩ := e
    have hk : k ≠ a := h (k, w) (List.mem_cons_self ..)
    have hr : Memory.free rest a := fun e he => h e (List.mem_cons_of_mem _ he)
    by_cases hlt : a < k
    · by_cases hb : b = a
      · simp [Memory.insert, Memory.read, hlt, hb]
      · have : ¬ a = b := fun h => hb h.symm
        simp [Memory.insert, Memory.read, hlt, hb, this]
    · simp only [Memory.insert, hlt, if_false, Memory.read, ih hr]
      by_cases hb : b = a
      · subst hb; simp [hk]
      · simp [hb]

/-- A byte stored is read back, and every other byte is as before. -/
theorem Memory.read_write (m : Memory) (a : Nat) (v : Byte) (b : Nat) :
    Memory.read (Memory.write m a v) b = if b = a then v else Memory.read m b := by
  unfold Memory.write
  split
  · next hv => rw [Memory.read_erase, hv]
  · rw [Memory.read_insert _ _ _ (Memory.free_erase m a), Memory.read_erase]
    by_cases hb : b = a <;> simp [hb]

/-! ### Words and doublewords -/

/-- A word store, byte by byte (20_memory.md R37). -/
theorem Memory.read_writeWord (m : Memory) (a : Nat) (v : Word) (b : Nat) :
    Memory.read (Memory.writeWord m a v) b =
      if b = a + 3 then byteOfWord v 3 else if b = a + 2 then byteOfWord v 2
      else if b = a + 1 then byteOfWord v 1 else if b = a then byteOfWord v 0 else Memory.read m b := by
  simp only [Memory.writeWord, Memory.read_write]

/-- Outside the four bytes, a word store leaves memory as it was. -/
theorem Memory.read_writeWord_other (m : Memory) (a : Nat) (v : Word) (b : Nat) (h : b < a ∨ a + 4 ≤ b) :
    Memory.read (Memory.writeWord m a v) b = Memory.read m b := by
  rw [Memory.read_writeWord, if_neg (by omega), if_neg (by omega), if_neg (by omega), if_neg (by omega)]

/-- The bytes a word store leaves. -/
theorem Memory.read_writeWord_byte (m : Memory) (a : Nat) (v : Word) (k : Nat) (h : k < 4) :
    Memory.read (Memory.writeWord m a v) (a + k) = byteOfWord v k := by
  rw [Memory.read_writeWord]
  rcases (by omega : k = 0 ∨ k = 1 ∨ k = 2 ∨ k = 3) with rfl | rfl | rfl | rfl <;> simp

/-- A byte of either half of a doubleword. -/
theorem byteOfWord_lowHalf (v : DWord) (k : Nat) (h : k < 4) : byteOfWord (lowHalf v) k = v.extractLsb' (8 * k) 8 := by
  apply BitVec.eq_of_getLsbD_eq; intro i hi
  simp only [byteOfWord, lowHalf, BitVec.getLsbD_extractLsb', hi, decide_true, Bool.true_and,
    show 8 * k + i < 32 by omega, Nat.zero_add]

theorem byteOfWord_highHalf (v : DWord) (k : Nat) (h : k < 4) :
    byteOfWord (highHalf v) k = v.extractLsb' (8 * (k + 4)) 8 := by
  apply BitVec.eq_of_getLsbD_eq; intro i hi
  simp only [byteOfWord, highHalf, BitVec.getLsbD_extractLsb', hi, decide_true, Bool.true_and,
    show 8 * k + i < 32 by omega, show 32 + (8 * k + i) = 8 * (k + 4) + i by omega]

/-- The bytes a doubleword store leaves (20_memory.md R37, R39). -/
theorem Memory.read_writeDouble_byte (m : Memory) (a : Nat) (v : DWord) (k : Nat) (h : k < 8) :
    Memory.read (Memory.writeDouble m a v) (a + k) = v.extractLsb' (8 * k) 8 := by
  unfold Memory.writeDouble
  by_cases hk : k < 4
  · rw [Memory.read_writeWord_other _ _ _ _ (by omega), Memory.read_writeWord_byte _ _ _ _ hk, byteOfWord_lowHalf v k hk]
  · obtain ⟨j, rfl⟩ : ∃ j, k = j + 4 := ⟨k - 4, by omega⟩
    rw [show a + (j + 4) = a + 4 + j by omega, Memory.read_writeWord_byte _ _ _ _ (by omega),
      byteOfWord_highHalf v j (by omega)]

/-- Outside the eight bytes, a doubleword store leaves memory as it was. -/
theorem Memory.read_writeDouble_other (m : Memory) (a : Nat) (v : DWord) (b : Nat) (h : b < a ∨ a + 8 ≤ b) :
    Memory.read (Memory.writeDouble m a v) b = Memory.read m b := by
  unfold Memory.writeDouble
  rw [Memory.read_writeWord_other _ _ _ _ (by omega), Memory.read_writeWord_other _ _ _ _ (by omega)]

/-- Reading a word sees its four bytes alone. -/
theorem Memory.readWord_congr {m n : Memory} {a : Nat} (h : ∀ k, k < 4 → Memory.read n (a + k) = Memory.read m (a + k)) :
    Memory.readWord n a = Memory.readWord m a := by
  have h0 := h 0 (by omega)
  simp only [Nat.add_zero] at h0
  simp only [Memory.readWord, h0, h 1 (by omega), h 2 (by omega), h 3 (by omega)]

/-! ### The canonical form is kept -/

theorem Memory.wfFrom_mono {m : Memory} {lo hi : Nat} (h : hi ≤ lo) (hm : Memory.wfFrom lo m = true) :
    Memory.wfFrom hi m = true := by
  cases m with
  | nil => rfl
  | cons e rest =>
    obtain ⟨k, v⟩ := e
    simp only [Memory.wfFrom, Bool.and_eq_true, decide_eq_true_eq] at hm ⊢
    exact ⟨⟨⟨le_trans h hm.1.1.1, hm.1.1.2⟩, hm.1.2⟩, hm.2⟩

theorem Memory.wfFrom_erase {m : Memory} {lo : Nat} (a : Nat) (hm : Memory.wfFrom lo m = true) :
    Memory.wfFrom lo (Memory.erase m a) = true := by
  induction m generalizing lo with
  | nil => rfl
  | cons e rest ih =>
    obtain ⟨k, v⟩ := e
    have hm' := hm
    simp only [Memory.wfFrom, Bool.and_eq_true, decide_eq_true_eq] at hm
    by_cases hk : k = a
    · simp only [Memory.erase, hk, if_true]
      exact ih (Memory.wfFrom_mono (by omega) hm.2)
    · simp only [Memory.erase, hk, if_false, Memory.wfFrom, Bool.and_eq_true, decide_eq_true_eq]
      exact ⟨hm.1, ih hm.2⟩

theorem Memory.wfFrom_insert {m : Memory} {lo a : Nat} {v : Byte} (hm : Memory.wfFrom lo m = true) (hlo : lo ≤ a)
    (ha : a < 2 ^ 32) (hv : (v != unlistedByte) = true) (hf : Memory.free m a) :
    Memory.wfFrom lo (Memory.insert m a v) = true := by
  induction m generalizing lo with
  | nil => simp only [Memory.insert, Memory.wfFrom, Bool.and_eq_true, decide_eq_true_eq]; exact ⟨⟨⟨hlo, ha⟩, hv⟩, trivial⟩
  | cons e rest ih =>
    obtain ⟨k, w⟩ := e
    simp only [Memory.wfFrom, Bool.and_eq_true, decide_eq_true_eq] at hm
    have hk : k ≠ a := hf (k, w) (List.mem_cons_self ..)
    by_cases hlt : a < k
    · simp only [Memory.insert, hlt, if_true, Memory.wfFrom, Bool.and_eq_true, decide_eq_true_eq]
      exact ⟨⟨⟨hlo, ha⟩, hv⟩, ⟨⟨by omega, hm.1.1.2⟩, hm.1.2⟩, hm.2⟩
    · simp only [Memory.insert, hlt, if_false, Memory.wfFrom, Bool.and_eq_true, decide_eq_true_eq]
      exact ⟨hm.1, ih hm.2 (by omega) (fun e he => hf e (List.mem_cons_of_mem _ he))⟩

/-- A byte store keeps the canonical form. -/
theorem Memory.wf_write {m : Memory} (a : Nat) (v : Byte) (hm : Memory.wf m = true) (ha : a < 2 ^ 32) :
    Memory.wf (Memory.write m a v) = true := by
  unfold Memory.write
  split
  · exact Memory.wfFrom_erase a hm
  · next hv =>
    exact Memory.wfFrom_insert (Memory.wfFrom_erase a hm) (Nat.zero_le a) ha (by simpa using hv) (Memory.free_erase m a)

/-- A word store keeps the canonical form. -/
theorem Memory.wf_writeWord {m : Memory} (a : Nat) (v : Word) (hm : Memory.wf m = true) (ha : a + 3 < 2 ^ 32) :
    Memory.wf (Memory.writeWord m a v) = true :=
  Memory.wf_write _ _ (Memory.wf_write _ _ (Memory.wf_write _ _ (Memory.wf_write _ _ hm (by omega)) (by omega))
    (by omega)) ha

/-- A doubleword store keeps the canonical form. -/
theorem Memory.wf_writeDouble {m : Memory} (a : Nat) (v : DWord) (hm : Memory.wf m = true) (ha : a + 7 < 2 ^ 32) :
    Memory.wf (Memory.writeDouble m a v) = true :=
  Memory.wf_writeWord _ _ (Memory.wf_writeWord _ _ hm (by omega)) (by omega)

/-- Memory at reset has the canonical form. -/
theorem Memory.wf_reset : Memory.wf State.reset.mem = true := rfl

end Sys2Proof.Machine
end

