-- ==== Sys2Proof/Laws/Ops.lean ====
section
/-! SUPPORT. One lemma for each shared operation, saying all it can do; the provers cite these and unfold nothing. -/

namespace Sys2Proof.Machine

/-! ### Rounding mode (40_numerics.md R80, R81) -/

theorem ofBits?_eq_some_iff (b : BitVec 3) (m : RoundingMode) : RoundingMode.ofBits? b = some m ↔ b = m.bits := by
  revert b m
  have h : ∀ b : BitVec 3, ∀ m ∈ [RoundingMode.rne, .rtz, .rdn, .rup, .rmm],
      (RoundingMode.ofBits? b = some m ↔ b = m.bits) := by decide
  intro b m
  exact h b m (by cases m <;> simp)

theorem ofBits?_eq_none_iff (b : BitVec 3) : RoundingMode.ofBits? b = none ↔ 5 ≤ b.toNat := by
  revert b; decide

theorem State.roundingMode?_eq_some_iff (s : State) (rm : RmField) (m : RoundingMode) :
    s.roundingMode? rm = some m ↔ s.roundsWith rm m := by
  cases rm <;> simp [State.roundingMode?, State.roundsWith, ofBits?_eq_some_iff]

theorem State.roundingMode?_eq_none_iff (s : State) (rm : RmField) :
    s.roundingMode? rm = none ↔ s.refusesRounding rm := by
  cases rm <;> simp [State.roundingMode?, State.refusesRounding, ofBits?_eq_none_iff]

theorem withRounding_of_rounds {s : State} {rm : RmField} {m : RoundingMode} (h : s.roundsWith rm m) (i : Instr)
    (k : RoundingMode → Result) : withRounding i rm s k = k m := by
  rw [withRounding, (s.roundingMode?_eq_some_iff rm m).mpr h]

theorem withRounding_of_refuses {s : State} {rm : RmField} (h : s.refusesRounding rm) (i : Instr)
    (k : RoundingMode → Result) : withRounding i rm s k = raise s .illegalInstruction (some (encode i)) := by
  rw [withRounding, (s.roundingMode?_eq_none_iff rm).mpr h]

/-- An instruction with an `rm` field continues with a mode or raises, and nothing else. -/
theorem withRounding_cases (i : Instr) (rm : RmField) (s : State) (k : RoundingMode → Result) :
    (∃ m, s.roundsWith rm m ∧ withRounding i rm s k = k m) ∨
      (s.refusesRounding rm ∧ withRounding i rm s k = raise s .illegalInstruction (some (encode i))) := by
  cases h : s.roundingMode? rm with
  | some m =>
    have h' := (s.roundingMode?_eq_some_iff rm m).mp h
    exact .inl ⟨m, h', withRounding_of_rounds h' i k⟩
  | none =>
    have h' := (s.roundingMode?_eq_none_iff rm).mp h
    exact .inr ⟨h', withRounding_of_refuses h' i k⟩

/-! ### Memory access (20_memory.md R41, R44) -/

theorem Launch.admits_iff (l : Launch) (a n : Nat) : l.admits a n = true ↔ ∀ k, k < n → l.inData (a + k) = true := by
  simp [Launch.admits]

theorem Launch.admits_false_iff (l : Launch) (a n : Nat) :
    l.admits a n = false ↔ ∃ k, k < n ∧ l.inData (a + k) = false := by
  simp [Launch.admits]

/-- An admitted access ends below 2^32. -/
theorem Launch.inData_lt {l : Launch} {a : Nat} (h : l.inData a = true) : a < 2 ^ 32 := by
  simp only [Launch.inData, Bool.and_eq_true, decide_eq_true_eq] at h
  exact h.1.1

theorem State.accessFault?_eq_none_iff (s : State) (ea : Word) (n : Nat) (c d : Cause) :
    s.accessFault? ea n c d = none ↔ s.accessAllowed ea n := by
  unfold State.accessFault? State.accessAllowed
  rw [← Launch.admits_iff]
  cases hm : s.launch.params.misaligned <;> by_cases ha : ea.toNat % n = 0 <;>
    cases hd : s.launch.admits ea.toNat n <;> simp [ha]

theorem State.accessFault?_of_misaligned {s : State} {ea : Word} {n : Nat} (h : s.accessMisaligned ea n) (c d : Cause) :
    s.accessFault? ea n c d = some c := by
  unfold State.accessFault?
  exact if_pos h

theorem State.accessFault?_of_absent {s : State} {ea : Word} {n : Nat} (h : s.accessAbsent ea n) (c d : Cause) :
    s.accessFault? ea n c d = some d := by
  unfold State.accessFault?
  rw [if_neg (by
    rintro ⟨hm, ha⟩
    rcases h.1 with h1 | h1
    · exact ha h1
    · rw [hm] at h1; cases h1), (s.launch.admits_false_iff ea.toNat n).mpr h.2]
  rfl

/-- An access is allowed, misaligned, or absent, and only one of the three. -/
theorem State.access_cases (s : State) (ea : Word) (n : Nat) :
    s.accessAllowed ea n ∨ s.accessMisaligned ea n ∨ s.accessAbsent ea n := by
  unfold State.accessAllowed State.accessMisaligned State.accessAbsent
  by_cases ha : ea.toNat % n = 0
  · by_cases hd : ∀ k, k < n → s.launch.inData (ea.toNat + k) = true
    · exact .inl ⟨.inl ha, hd⟩
    · simp only [not_forall, Bool.not_eq_true, exists_prop] at hd
      exact .inr (.inr ⟨.inl ha, hd⟩)
  · cases hm : s.launch.params.misaligned with
    | trap => exact .inr (.inl ⟨rfl, ha⟩)
    | emulate =>
      by_cases hd : ∀ k, k < n → s.launch.inData (ea.toNat + k) = true
      · exact .inl ⟨.inr rfl, hd⟩
      · simp only [not_forall, Bool.not_eq_true, exists_prop] at hd
        exact .inr (.inr ⟨.inr rfl, hd⟩)

theorem withLoad_of_allowed {s : State} {ea : Word} {n : Nat} (h : s.accessAllowed ea n) (k : Result) :
    withLoad s ea n k = k := by
  rw [withLoad, (s.accessFault?_eq_none_iff ea n _ _).mpr h]

theorem withLoad_of_misaligned {s : State} {ea : Word} {n : Nat} (h : s.accessMisaligned ea n) (k : Result) :
    withLoad s ea n k = raise s .loadAddressMisaligned (some ea) := by
  rw [withLoad, State.accessFault?_of_misaligned h]

theorem withLoad_of_absent {s : State} {ea : Word} {n : Nat} (h : s.accessAbsent ea n) (k : Result) :
    withLoad s ea n k = raise s .loadAccessFault (some ea) := by
  rw [withLoad, State.accessFault?_of_absent h]

theorem withStore_of_allowed {s : State} {ea : Word} {n : Nat} (h : s.accessAllowed ea n) (k : Result) :
    withStore s ea n k = k := by
  rw [withStore, (s.accessFault?_eq_none_iff ea n _ _).mpr h]

theorem withStore_of_misaligned {s : State} {ea : Word} {n : Nat} (h : s.accessMisaligned ea n) (k : Result) :
    withStore s ea n k = raise s .storeAddressMisaligned (some ea) := by
  rw [withStore, State.accessFault?_of_misaligned h]

theorem withStore_of_absent {s : State} {ea : Word} {n : Nat} (h : s.accessAbsent ea n) (k : Result) :
    withStore s ea n k = raise s .storeAccessFault (some ea) := by
  rw [withStore, State.accessFault?_of_absent h]

/-- A load continues or raises, and nothing else. -/
theorem withLoad_cases (s : State) (ea : Word) (n : Nat) (k : Result) :
    (s.accessAllowed ea n ∧ withLoad s ea n k = k) ∨ ∃ c, withLoad s ea n k = raise s c (some ea) := by
  rcases s.access_cases ea n with h | h | h
  · exact .inl ⟨h, withLoad_of_allowed h k⟩
  · exact .inr ⟨_, withLoad_of_misaligned h k⟩
  · exact .inr ⟨_, withLoad_of_absent h k⟩

/-- A store continues or raises, and nothing else. -/
theorem withStore_cases (s : State) (ea : Word) (n : Nat) (k : Result) :
    (s.accessAllowed ea n ∧ withStore s ea n k = k) ∨ ∃ c, withStore s ea n k = raise s c (some ea) := by
  rcases s.access_cases ea n with h | h | h
  · exact .inl ⟨h, withStore_of_allowed h k⟩
  · exact .inr ⟨_, withStore_of_misaligned h k⟩
  · exact .inr ⟨_, withStore_of_absent h k⟩

/-! ### Traps (60_exceptions.md R204) -/

theorem State.traps_takeTrap (s : State) (c : Cause) (tval : Option Word) : s.Traps (s.takeTrap c tval) c tval :=
  ⟨rfl, fun _ => rfl, fun _ => rfl, rfl, fun _ => rfl, rfl, rfl⟩

theorem raise_traps (s : State) (c : Cause) (tval : Option Word) :
    ∃ t, raise s c tval = .next t ∧ s.Traps t c tval := ⟨_, rfl, s.traps_takeTrap c tval⟩

/-! ### Completing an instruction -/

theorem finishX_done (s : State) (rd : XReg) (r : Word × FlagSet) :
    ∃ t, finishX s rd r = .next t ∧ s.DoneX t rd r.1 r.2 := by
  refine ⟨_, rfl, fun q => ?_, fun q => ?_, ?_, fun a => ?_, ?_, ?_, ?_⟩
  · simpa using s.readX_writeX rd q r.1
  · simp
  · exact ⟨((s.writeX rd r.1).fflags_accrue r.2).trans (by simp [State.fflags]),
      ((s.writeX rd r.1).frm_accrue r.2).trans (by simp [State.frm]),
      ((s.writeX rd r.1).upper_accrue r.2).trans (by simp)⟩
  all_goals simp

theorem finishS_done (s : State) (rd : FReg) (r : Word × FlagSet) :
    ∃ t, finishS s rd r = .next t ∧ s.DoneS t rd r.1 r.2 := by
  refine ⟨_, rfl, fun q => ?_, ⟨?_, fun h => ?_, fun q hq => ?_⟩, ?_, fun a => ?_, ?_, ?_, ?_⟩
  · rfl
  · simp [s.readF_writeS]
  · simp [s.readF_writeS, State.upperHalf, h]
  · simp [s.readF_writeS, hq]
  · exact (s.writeS rd r.1).accrued_accrue r.2
  all_goals rfl

theorem finishD_done (s : State) (rd : FReg) (r : DWord × FlagSet) :
    ∃ t, finishD s rd r = .next t ∧ s.DoneD t rd r.1 r.2 := by
  refine ⟨_, rfl, fun q => ?_, fun q => ?_, ?_, fun a => ?_, ?_, ?_, ?_⟩
  · rfl
  · exact s.readF_writeF rd q r.1
  · exact (s.writeF rd r.1).accrued_accrue r.2
  all_goals rfl

theorem accrued_none (s t : State) (h : t.fcsr = s.fcsr) : s.accrued t noFlags := by
  simp [State.accrued, State.fflags, State.frm, h, noFlags]

theorem writeXNext_done (s : State) (rd : XReg) (v : Word) :
    ∃ t, writeXNext s rd v = .next t ∧ s.DoneX t rd v noFlags := by
  refine ⟨_, rfl, fun q => ?_, fun q => ?_, accrued_none _ _ ?_, fun a => ?_, ?_, ?_, ?_⟩
  · simpa using s.readX_writeX rd q v
  all_goals simp

theorem writeSNext_done (s : State) (rd : FReg) (v : Word) :
    ∃ t, writeSNext s rd v = .next t ∧ s.DoneS t rd v noFlags := by
  refine ⟨_, rfl, fun q => ?_, ⟨?_, fun h => ?_, fun q hq => ?_⟩, accrued_none _ _ ?_, fun a => ?_, ?_, ?_, ?_⟩
  · rfl
  · simp [s.readF_writeS]
  · simp [s.readF_writeS, State.upperHalf, h]
  · simp [s.readF_writeS, hq]
  all_goals rfl

theorem writeDNext_done (s : State) (rd : FReg) (v : DWord) :
    ∃ t, writeDNext s rd v = .next t ∧ s.DoneD t rd v noFlags := by
  refine ⟨_, rfl, fun q => ?_, fun q => s.readF_writeF rd q v, accrued_none _ _ ?_, fun a => ?_, ?_, ?_, ?_⟩ <;> rfl

theorem storeNext_word_done (s : State) (ea : Word) (v : Word) :
    ∃ t, storeNext s (Memory.writeWord s.mem ea.toNat v) = .next t ∧ s.DoneStore t ea 4 v :=
  ⟨_, rfl, fun _ => rfl, fun _ => rfl, rfl, fun k hk => Memory.read_writeWord_byte _ _ _ k hk,
    fun a ha => Memory.read_writeWord_other _ _ _ a ha, rfl, rfl, rfl⟩

theorem storeNext_double_done (s : State) (ea : Word) (v : DWord) :
    ∃ t, storeNext s (Memory.writeDouble s.mem ea.toNat v) = .next t ∧ s.DoneStore t ea 8 v :=
  ⟨_, rfl, fun _ => rfl, fun _ => rfl, rfl, fun k hk => Memory.read_writeDouble_byte _ _ _ k hk,
    fun a ha => Memory.read_writeDouble_other _ _ _ a ha, rfl, rfl, rfl⟩

/-! ### Control transfer (47_base_subset.md R168) -/

theorem transfer_of_aligned {s : State} {t : Word} (h : t.toNat % 4 = 0) (pre : State) :
    transfer s t pre = .next (pre.setPc t) := by rw [transfer, if_pos h]

theorem transfer_of_misaligned {s : State} {t : Word} (h : t.toNat % 4 ≠ 0) (pre : State) :
    transfer s t pre = raise s .instructionAddressMisaligned (some t) := by rw [transfer, if_neg h]

theorem branchIf_not_taken (s : State) (off : BitVec 13) :
    branchIf s off false = .next s.advance := rfl

theorem branchIf_taken (s : State) (off : BitVec 13) :
    branchIf s off true = transfer s (s.branchTarget off) s := rfl

/-! ### CSRs (10_state.md R30, R31; 47_base_subset.md R189) -/

theorem withCsr_of_some {n : BitVec 12} {c : Csr} (h : csrOfNumber n = some c) (k : Csr → Result) :
    withCsr n k = k c := by rw [withCsr, h]

theorem withCsr_of_none {n : BitVec 12} (h : csrOfNumber n = none) (k : Csr → Result) :
    withCsr n k = .refused (.csrNotDescribed n) := by rw [withCsr, h]

theorem csrOfNumber_eq_none_iff (n : BitVec 12) : csrOfNumber n = none ↔ n ≠ 0x001 ∧ n ≠ 0x002 ∧ n ≠ 0x003 := by
  unfold csrOfNumber
  split_ifs with h1 h2 h3 <;> simp_all

theorem State.upper_writeCsr (s : State) (c : Csr) (v : Word) :
    (s.writeCsr c v).fcsr.extractLsb' 8 24 = s.fcsr.extractLsb' 8 24 := by
  cases c with
  | fflags =>
    apply BitVec.eq_of_getLsbD_eq; intro i hi
    show ((s.fcsr.extractLsb' 5 27 ++ v.extractLsb' 0 5 : BitVec (27 + 5)).extractLsb' 8 24).getLsbD i = _
    simp only [BitVec.getLsbD_extractLsb', BitVec.getLsbD_append, hi, show ¬ 8 + i < 5 by omega, if_false, decide_true,
      Bool.true_and, show 8 + i - 5 < 27 by omega, show 5 + (8 + i - 5) = 8 + i by omega]
  | frm =>
    apply BitVec.eq_of_getLsbD_eq; intro i hi
    show ((s.fcsr.extractLsb' 8 24 ++ v.extractLsb' 0 3 ++ s.fcsr.extractLsb' 0 5 :
      BitVec (24 + 3 + 5)).extractLsb' 8 24).getLsbD i = _
    simp only [BitVec.getLsbD_extractLsb', BitVec.getLsbD_append, hi, show ¬ 8 + i < 5 by omega,
      show ¬ 8 + i - 5 < 3 by omega, if_false, decide_true, Bool.true_and, show 8 + i - 5 - 3 = i by omega]
  | fcsr => exact extract_append_high (n := 24) (m := 8) _ _

/-- The fields a CSR write leaves (10_state.md R30). -/
theorem State.csrWritten_writeCsr (s : State) (c : Csr) (v : Word) : s.csrWritten (s.writeCsr c v) c (some v) := by
  refine ⟨s.upper_writeCsr c v, ?_⟩
  cases c with
  | fflags =>
    refine ⟨extract_append_low (n := 27) (m := 5) _ _, ?_⟩
    apply BitVec.eq_of_getLsbD_eq; intro i hi
    show ((s.fcsr.extractLsb' 5 27 ++ v.extractLsb' 0 5 : BitVec (27 + 5)).extractLsb' 5 3).getLsbD i =
      (s.fcsr.extractLsb' 5 3).getLsbD i
    simp only [BitVec.getLsbD_extractLsb', BitVec.getLsbD_append, hi, show ¬ 5 + i < 5 by omega, if_false, decide_true,
      Bool.true_and, show 5 + i - 5 = i by omega, show i < 27 by omega]
  | frm =>
    refine ⟨extract_append_low (n := 24 + 3) (m := 5) _ _, ?_⟩
    apply BitVec.eq_of_getLsbD_eq; intro i hi
    show ((s.fcsr.extractLsb' 8 24 ++ v.extractLsb' 0 3 ++ s.fcsr.extractLsb' 0 5 :
      BitVec (24 + 3 + 5)).extractLsb' 5 3).getLsbD i = _
    simp only [BitVec.getLsbD_extractLsb', BitVec.getLsbD_append, hi, show ¬ 5 + i < 5 by omega, if_false, decide_true,
      Bool.true_and, show 5 + i - 5 = i by omega, if_true]
  | fcsr =>
    constructor <;> (apply BitVec.eq_of_getLsbD_eq; intro i hi)
    · show ((s.fcsr.extractLsb' 8 24 ++ v.extractLsb' 0 8 : BitVec (24 + 8)).extractLsb' 0 5).getLsbD i = _
      simp only [BitVec.getLsbD_extractLsb', BitVec.getLsbD_append, hi, if_true, decide_true,
        Bool.true_and, Nat.zero_add, show i < 8 by omega]
    · show ((s.fcsr.extractLsb' 8 24 ++ v.extractLsb' 0 8 : BitVec (24 + 8)).extractLsb' 5 3).getLsbD i = _
      simp only [BitVec.getLsbD_extractLsb', BitVec.getLsbD_append, hi, show 5 + i < 8 by omega, if_true, decide_true,
        Bool.true_and, Nat.zero_add]

theorem State.csrWritten_none (s t : State) (c : Csr) (h : t.fcsr = s.fcsr) : s.csrWritten t c none := by
  simp [State.csrWritten, State.fflags, State.frm, h]

theorem csrNext_done (s : State) (rd : XReg) (c : Csr) (new : Option Word) :
    ∃ t, csrNext s rd c new = .next t ∧ s.DoneCsr t rd c new := by
  cases new with
  | none =>
    refine ⟨_, rfl, fun q => ?_, fun q => ?_, s.csrWritten_none _ c ?_, fun a => ?_, ?_, ?_, ?_⟩
    · simpa using s.readX_writeX rd q (s.readCsr c)
    all_goals simp
  | some v =>
    refine ⟨_, rfl, fun q => ?_, fun q => ?_, ?_, fun a => ?_, ?_, ?_, ?_⟩
    · simpa using (s.writeCsr c v).readX_writeX rd q (s.readCsr c)
    · simp
    · have h := s.csrWritten_writeCsr c v
      unfold State.csrWritten State.fflags State.frm at h ⊢
      simpa using h
    all_goals simp

/-! ### Fetch (20_memory.md R38) -/

theorem State.fetch_of_misaligned {s : State} (h : s.pc.toNat % 4 ≠ 0) :
    s.fetch = .error .instructionAddressMisaligned := by rw [State.fetch, if_pos h]

theorem State.fetch_of_some {s : State} {w : Word} (h : s.pc.toNat % 4 = 0)
    (hw : textWord? s.launch.text s.pc.toNat = some w) : s.fetch = .ok w := by
  rw [State.fetch, if_neg (by omega), hw]

theorem State.fetch_of_none {s : State} (h : s.pc.toNat % 4 = 0)
    (hw : textWord? s.launch.text s.pc.toNat = none) : s.fetch = .error .instructionAccessFault := by
  rw [State.fetch, if_neg (by omega), hw]

/-! ### The step (70_reset_and_hazards.md R216) -/

theorem step_of_trapped {s : State} (h : s.trap ≠ none) : step s = .fault .trapped := by
  show runStep s = _
  rw [runStep, if_pos (Option.isSome_iff_ne_none.mpr h)]

theorem step_of_halted {s : State} (h : s.trap = none) (hp : s.pc = s.launch.haltPc) : step s = .fault .halted := by
  show runStep s = _
  rw [runStep, h, if_neg (by decide), if_pos hp]

theorem step_of_running {s : State} (h : s.running) : step s = fetchAndRun s := by
  show runStep s = _
  rw [runStep, h.1, if_neg (by decide), if_neg h.2]

/-- All a step can do: end in a fault, trap on the fetch, run the decoded instruction, trap on an illegal word, or refuse
a word the spec does not describe. -/
theorem step_cases (s : State) :
    step s = .fault .trapped ∨ step s = .fault .halted ∨
    (s.running ∧ ∃ c, s.fetch = .error c ∧ step s = raise s c (some s.pc)) ∨
    (s.running ∧ ∃ w, s.fetch = .ok w ∧
      ((∃ i, decodeWord w = .instr i ∧ step s = exec i s) ∨
       (∃ v, decodeWord w = .illegal v ∧ step s = raise s .illegalInstruction (some v)) ∨
       ∃ v, step s = .refused (.wordNotDescribed v))) := by
  by_cases ht : s.trap = none
  · by_cases hp : s.pc = s.launch.haltPc
    · exact .inr (.inl (step_of_halted ht hp))
    · have hr : s.running := ⟨ht, hp⟩
      rw [step_of_running hr]
      refine .inr (.inr ?_)
      cases hf : s.fetch with
      | error c => exact .inl ⟨hr, c, rfl, by simp [fetchAndRun, hf]⟩
      | ok w =>
        refine .inr ⟨hr, w, rfl, ?_⟩
        simp only [fetchAndRun, hf, runWord]
        cases hd : decodeWord w with
        | instr i => exact .inl ⟨i, rfl, rfl⟩
        | illegal v => exact .inr (.inl ⟨v, rfl, rfl⟩)
        | notDescribed v => exact .inr (.inr ⟨v, rfl⟩)
        | truncated => exact .inr (.inr ⟨w, rfl⟩)
  · exact .inl (step_of_trapped ht)

end Sys2Proof.Machine
end

