-- ==== Sys2Proof/Laws/PerInstr.lean ====
section
/-! SUPPORT. Facts of every instruction, one lemma per constructor: its word selects its row of the opcode table, and the
row reads every field back. -/

namespace Sys2Proof

/-- An `rm` field survives its three bits (30_encoding.md R67). -/
@[simp] theorem RmField.ofBits_bits (rm : RmField) : RmField.ofBits rm.bits = rm := by
  cases rm with
  | static m => cases m <;> rfl
  | dyn => rfl
  | reserved101 => rfl
  | reserved110 => rfl

@[simp] theorem rmField_encodeR (f7 : BitVec 7) (rs2 rs1 : BitVec 5) (rm : RmField) (rd : BitVec 5) (op : BitVec 7) :
    rmField (encodeR f7 rs2 rs1 rm.bits rd op) = rm := by simp [rmField]

@[simp] theorem rmField_encodeR4 (rs3 : BitVec 5) (fmt : BitVec 2) (rs2 rs1 : BitVec 5) (rm : RmField) (rd : BitVec 5)
    (op : BitVec 7) : rmField (encodeR4 rs3 fmt rs2 rs1 rm.bits rd op) = rm := by simp [rmField]

end Sys2Proof

namespace Sys2Proof.Laws.EncodingHitsRow

/-- The instruction's word selects a row of the opcode table (30_encoding.md R65) whose reading of it is the instruction
itself. -/
def Statement (i : Instr) : Prop :=
  ∃ r ∈ opcodeRows, r.hits (encode i) = true ∧ (i.wf = true → r.build (encode i) = i)

theorem flw (rd : FReg) (rs1 : XReg) (imm : BitVec 12) : Statement (.flw rd rs1 imm) := by
  refine ⟨opcodeRows[0], List.getElem_mem (by decide), ?_, fun h => ?_⟩
  · show (encode (.flw rd rs1 imm) &&& 0x0000707f == 0x00002007) = true
    rw [show (0x0000707f : Word) = encodeI 0x0#12 0x0#5 0x7#3 0x0#5 0x7f#7 from rfl]
    simp [encode, encodeI_and]
    rfl
  · show Instr.flw (rdField (encode (.flw rd rs1 imm))) (rs1Field (encode (.flw rd rs1 imm))) (immI (encode (.flw rd rs1 imm))) = _
    simp [encode]

theorem fsw (rs2 : FReg) (rs1 : XReg) (imm : BitVec 12) : Statement (.fsw rs2 rs1 imm) := by
  refine ⟨opcodeRows[1], List.getElem_mem (by decide), ?_, fun h => ?_⟩
  · show (encode (.fsw rs2 rs1 imm) &&& 0x0000707f == 0x00002027) = true
    rw [show (0x0000707f : Word) = encodeR 0x0#7 0x0#5 0x0#5 0x7#3 0x0#5 0x7f#7 from rfl]
    simp [encode, encodeS_eq, encodeR_and]
    rfl
  · show Instr.fsw (rs2Field (encode (.fsw rs2 rs1 imm))) (rs1Field (encode (.fsw rs2 rs1 imm))) (immS (encode (.fsw rs2 rs1 imm))) = _
    simp [encode]

theorem fmaddS (rd rs1 rs2 rs3 : FReg) (rm : RmField) : Statement (.fmaddS rd rs1 rs2 rs3 rm) := by
  refine ⟨opcodeRows[2], List.getElem_mem (by decide), ?_, fun h => ?_⟩
  · show (encode (.fmaddS rd rs1 rs2 rs3 rm) &&& 0x0600007f == 0x00000043) = true
    rw [show (0x0600007f : Word) = encodeR4 0x0#5 0x3#2 0x0#5 0x0#5 0x0#3 0x0#5 0x7f#7 from rfl]
    simp [encode, encodeR4_and]
    rfl
  · show Instr.fmaddS (rdField (encode (.fmaddS rd rs1 rs2 rs3 rm))) (rs1Field (encode (.fmaddS rd rs1 rs2 rs3 rm))) (rs2Field (encode (.fmaddS rd rs1 rs2 rs3 rm))) (rs3Field (encode (.fmaddS rd rs1 rs2 rs3 rm))) (rmField (encode (.fmaddS rd rs1 rs2 rs3 rm))) = _
    simp [encode]

theorem fmsubS (rd rs1 rs2 rs3 : FReg) (rm : RmField) : Statement (.fmsubS rd rs1 rs2 rs3 rm) := by
  refine ⟨opcodeRows[3], List.getElem_mem (by decide), ?_, fun h => ?_⟩
  · show (encode (.fmsubS rd rs1 rs2 rs3 rm) &&& 0x0600007f == 0x00000047) = true
    rw [show (0x0600007f : Word) = encodeR4 0x0#5 0x3#2 0x0#5 0x0#5 0x0#3 0x0#5 0x7f#7 from rfl]
    simp [encode, encodeR4_and]
    rfl
  · show Instr.fmsubS (rdField (encode (.fmsubS rd rs1 rs2 rs3 rm))) (rs1Field (encode (.fmsubS rd rs1 rs2 rs3 rm))) (rs2Field (encode (.fmsubS rd rs1 rs2 rs3 rm))) (rs3Field (encode (.fmsubS rd rs1 rs2 rs3 rm))) (rmField (encode (.fmsubS rd rs1 rs2 rs3 rm))) = _
    simp [encode]

theorem fnmsubS (rd rs1 rs2 rs3 : FReg) (rm : RmField) : Statement (.fnmsubS rd rs1 rs2 rs3 rm) := by
  refine ⟨opcodeRows[4], List.getElem_mem (by decide), ?_, fun h => ?_⟩
  · show (encode (.fnmsubS rd rs1 rs2 rs3 rm) &&& 0x0600007f == 0x0000004b) = true
    rw [show (0x0600007f : Word) = encodeR4 0x0#5 0x3#2 0x0#5 0x0#5 0x0#3 0x0#5 0x7f#7 from rfl]
    simp [encode, encodeR4_and]
    rfl
  · show Instr.fnmsubS (rdField (encode (.fnmsubS rd rs1 rs2 rs3 rm))) (rs1Field (encode (.fnmsubS rd rs1 rs2 rs3 rm))) (rs2Field (encode (.fnmsubS rd rs1 rs2 rs3 rm))) (rs3Field (encode (.fnmsubS rd rs1 rs2 rs3 rm))) (rmField (encode (.fnmsubS rd rs1 rs2 rs3 rm))) = _
    simp [encode]

theorem fnmaddS (rd rs1 rs2 rs3 : FReg) (rm : RmField) : Statement (.fnmaddS rd rs1 rs2 rs3 rm) := by
  refine ⟨opcodeRows[5], List.getElem_mem (by decide), ?_, fun h => ?_⟩
  · show (encode (.fnmaddS rd rs1 rs2 rs3 rm) &&& 0x0600007f == 0x0000004f) = true
    rw [show (0x0600007f : Word) = encodeR4 0x0#5 0x3#2 0x0#5 0x0#5 0x0#3 0x0#5 0x7f#7 from rfl]
    simp [encode, encodeR4_and]
    rfl
  · show Instr.fnmaddS (rdField (encode (.fnmaddS rd rs1 rs2 rs3 rm))) (rs1Field (encode (.fnmaddS rd rs1 rs2 rs3 rm))) (rs2Field (encode (.fnmaddS rd rs1 rs2 rs3 rm))) (rs3Field (encode (.fnmaddS rd rs1 rs2 rs3 rm))) (rmField (encode (.fnmaddS rd rs1 rs2 rs3 rm))) = _
    simp [encode]

theorem faddS (rd rs1 rs2 : FReg) (rm : RmField) : Statement (.faddS rd rs1 rs2 rm) := by
  refine ⟨opcodeRows[6], List.getElem_mem (by decide), ?_, fun h => ?_⟩
  · show (encode (.faddS rd rs1 rs2 rm) &&& 0xfe00007f == 0x00000053) = true
    rw [show (0xfe00007f : Word) = encodeR 0x7f#7 0x0#5 0x0#5 0x0#3 0x0#5 0x7f#7 from rfl]
    simp [encode, encodeR_and]
    rfl
  · show Instr.faddS (rdField (encode (.faddS rd rs1 rs2 rm))) (rs1Field (encode (.faddS rd rs1 rs2 rm))) (rs2Field (encode (.faddS rd rs1 rs2 rm))) (rmField (encode (.faddS rd rs1 rs2 rm))) = _
    simp [encode]

theorem fsubS (rd rs1 rs2 : FReg) (rm : RmField) : Statement (.fsubS rd rs1 rs2 rm) := by
  refine ⟨opcodeRows[7], List.getElem_mem (by decide), ?_, fun h => ?_⟩
  · show (encode (.fsubS rd rs1 rs2 rm) &&& 0xfe00007f == 0x08000053) = true
    rw [show (0xfe00007f : Word) = encodeR 0x7f#7 0x0#5 0x0#5 0x0#3 0x0#5 0x7f#7 from rfl]
    simp [encode, encodeR_and]
    rfl
  · show Instr.fsubS (rdField (encode (.fsubS rd rs1 rs2 rm))) (rs1Field (encode (.fsubS rd rs1 rs2 rm))) (rs2Field (encode (.fsubS rd rs1 rs2 rm))) (rmField (encode (.fsubS rd rs1 rs2 rm))) = _
    simp [encode]

theorem fmulS (rd rs1 rs2 : FReg) (rm : RmField) : Statement (.fmulS rd rs1 rs2 rm) := by
  refine ⟨opcodeRows[8], List.getElem_mem (by decide), ?_, fun h => ?_⟩
  · show (encode (.fmulS rd rs1 rs2 rm) &&& 0xfe00007f == 0x10000053) = true
    rw [show (0xfe00007f : Word) = encodeR 0x7f#7 0x0#5 0x0#5 0x0#3 0x0#5 0x7f#7 from rfl]
    simp [encode, encodeR_and]
    rfl
  · show Instr.fmulS (rdField (encode (.fmulS rd rs1 rs2 rm))) (rs1Field (encode (.fmulS rd rs1 rs2 rm))) (rs2Field (encode (.fmulS rd rs1 rs2 rm))) (rmField (encode (.fmulS rd rs1 rs2 rm))) = _
    simp [encode]

theorem fdivS (rd rs1 rs2 : FReg) (rm : RmField) : Statement (.fdivS rd rs1 rs2 rm) := by
  refine ⟨opcodeRows[9], List.getElem_mem (by decide), ?_, fun h => ?_⟩
  · show (encode (.fdivS rd rs1 rs2 rm) &&& 0xfe00007f == 0x18000053) = true
    rw [show (0xfe00007f : Word) = encodeR 0x7f#7 0x0#5 0x0#5 0x0#3 0x0#5 0x7f#7 from rfl]
    simp [encode, encodeR_and]
    rfl
  · show Instr.fdivS (rdField (encode (.fdivS rd rs1 rs2 rm))) (rs1Field (encode (.fdivS rd rs1 rs2 rm))) (rs2Field (encode (.fdivS rd rs1 rs2 rm))) (rmField (encode (.fdivS rd rs1 rs2 rm))) = _
    simp [encode]

theorem fsqrtS (rd rs1 : FReg) (rm : RmField) : Statement (.fsqrtS rd rs1 rm) := by
  refine ⟨opcodeRows[10], List.getElem_mem (by decide), ?_, fun h => ?_⟩
  · show (encode (.fsqrtS rd rs1 rm) &&& 0xfff0007f == 0x58000053) = true
    rw [show (0xfff0007f : Word) = encodeR 0x7f#7 0x1f#5 0x0#5 0x0#3 0x0#5 0x7f#7 from rfl]
    simp [encode, encodeR_and]
    rfl
  · show Instr.fsqrtS (rdField (encode (.fsqrtS rd rs1 rm))) (rs1Field (encode (.fsqrtS rd rs1 rm))) (rmField (encode (.fsqrtS rd rs1 rm))) = _
    simp [encode]

theorem fsgnjS (rd rs1 rs2 : FReg) : Statement (.fsgnjS rd rs1 rs2) := by
  refine ⟨opcodeRows[11], List.getElem_mem (by decide), ?_, fun h => ?_⟩
  · show (encode (.fsgnjS rd rs1 rs2) &&& 0xfe00707f == 0x20000053) = true
    rw [show (0xfe00707f : Word) = encodeR 0x7f#7 0x0#5 0x0#5 0x7#3 0x0#5 0x7f#7 from rfl]
    simp [encode, encodeR_and]
    rfl
  · show Instr.fsgnjS (rdField (encode (.fsgnjS rd rs1 rs2))) (rs1Field (encode (.fsgnjS rd rs1 rs2))) (rs2Field (encode (.fsgnjS rd rs1 rs2))) = _
    simp [encode]

theorem fsgnjnS (rd rs1 rs2 : FReg) : Statement (.fsgnjnS rd rs1 rs2) := by
  refine ⟨opcodeRows[12], List.getElem_mem (by decide), ?_, fun h => ?_⟩
  · show (encode (.fsgnjnS rd rs1 rs2) &&& 0xfe00707f == 0x20001053) = true
    rw [show (0xfe00707f : Word) = encodeR 0x7f#7 0x0#5 0x0#5 0x7#3 0x0#5 0x7f#7 from rfl]
    simp [encode, encodeR_and]
    rfl
  · show Instr.fsgnjnS (rdField (encode (.fsgnjnS rd rs1 rs2))) (rs1Field (encode (.fsgnjnS rd rs1 rs2))) (rs2Field (encode (.fsgnjnS rd rs1 rs2))) = _
    simp [encode]

theorem fsgnjxS (rd rs1 rs2 : FReg) : Statement (.fsgnjxS rd rs1 rs2) := by
  refine ⟨opcodeRows[13], List.getElem_mem (by decide), ?_, fun h => ?_⟩
  · show (encode (.fsgnjxS rd rs1 rs2) &&& 0xfe00707f == 0x20002053) = true
    rw [show (0xfe00707f : Word) = encodeR 0x7f#7 0x0#5 0x0#5 0x7#3 0x0#5 0x7f#7 from rfl]
    simp [encode, encodeR_and]
    rfl
  · show Instr.fsgnjxS (rdField (encode (.fsgnjxS rd rs1 rs2))) (rs1Field (encode (.fsgnjxS rd rs1 rs2))) (rs2Field (encode (.fsgnjxS rd rs1 rs2))) = _
    simp [encode]

theorem fminS (rd rs1 rs2 : FReg) : Statement (.fminS rd rs1 rs2) := by
  refine ⟨opcodeRows[14], List.getElem_mem (by decide), ?_, fun h => ?_⟩
  · show (encode (.fminS rd rs1 rs2) &&& 0xfe00707f == 0x28000053) = true
    rw [show (0xfe00707f : Word) = encodeR 0x7f#7 0x0#5 0x0#5 0x7#3 0x0#5 0x7f#7 from rfl]
    simp [encode, encodeR_and]
    rfl
  · show Instr.fminS (rdField (encode (.fminS rd rs1 rs2))) (rs1Field (encode (.fminS rd rs1 rs2))) (rs2Field (encode (.fminS rd rs1 rs2))) = _
    simp [encode]

theorem fmaxS (rd rs1 rs2 : FReg) : Statement (.fmaxS rd rs1 rs2) := by
  refine ⟨opcodeRows[15], List.getElem_mem (by decide), ?_, fun h => ?_⟩
  · show (encode (.fmaxS rd rs1 rs2) &&& 0xfe00707f == 0x28001053) = true
    rw [show (0xfe00707f : Word) = encodeR 0x7f#7 0x0#5 0x0#5 0x7#3 0x0#5 0x7f#7 from rfl]
    simp [encode, encodeR_and]
    rfl
  · show Instr.fmaxS (rdField (encode (.fmaxS rd rs1 rs2))) (rs1Field (encode (.fmaxS rd rs1 rs2))) (rs2Field (encode (.fmaxS rd rs1 rs2))) = _
    simp [encode]

theorem fcvtWS (rd : XReg) (rs1 : FReg) (rm : RmField) : Statement (.fcvtWS rd rs1 rm) := by
  refine ⟨opcodeRows[16], List.getElem_mem (by decide), ?_, fun h => ?_⟩
  · show (encode (.fcvtWS rd rs1 rm) &&& 0xfff0007f == 0xc0000053) = true
    rw [show (0xfff0007f : Word) = encodeR 0x7f#7 0x1f#5 0x0#5 0x0#3 0x0#5 0x7f#7 from rfl]
    simp [encode, encodeR_and]
    rfl
  · show Instr.fcvtWS (rdField (encode (.fcvtWS rd rs1 rm))) (rs1Field (encode (.fcvtWS rd rs1 rm))) (rmField (encode (.fcvtWS rd rs1 rm))) = _
    simp [encode]

theorem fcvtWuS (rd : XReg) (rs1 : FReg) (rm : RmField) : Statement (.fcvtWuS rd rs1 rm) := by
  refine ⟨opcodeRows[17], List.getElem_mem (by decide), ?_, fun h => ?_⟩
  · show (encode (.fcvtWuS rd rs1 rm) &&& 0xfff0007f == 0xc0100053) = true
    rw [show (0xfff0007f : Word) = encodeR 0x7f#7 0x1f#5 0x0#5 0x0#3 0x0#5 0x7f#7 from rfl]
    simp [encode, encodeR_and]
    rfl
  · show Instr.fcvtWuS (rdField (encode (.fcvtWuS rd rs1 rm))) (rs1Field (encode (.fcvtWuS rd rs1 rm))) (rmField (encode (.fcvtWuS rd rs1 rm))) = _
    simp [encode]

theorem fmvXW (rd : XReg) (rs1 : FReg) : Statement (.fmvXW rd rs1) := by
  refine ⟨opcodeRows[18], List.getElem_mem (by decide), ?_, fun h => ?_⟩
  · show (encode (.fmvXW rd rs1) &&& 0xfff0707f == 0xe0000053) = true
    rw [show (0xfff0707f : Word) = encodeR 0x7f#7 0x1f#5 0x0#5 0x7#3 0x0#5 0x7f#7 from rfl]
    simp [encode, encodeR_and]
    rfl
  · show Instr.fmvXW (rdField (encode (.fmvXW rd rs1))) (rs1Field (encode (.fmvXW rd rs1))) = _
    simp [encode]

theorem feqS (rd : XReg) (rs1 rs2 : FReg) : Statement (.feqS rd rs1 rs2) := by
  refine ⟨opcodeRows[19], List.getElem_mem (by decide), ?_, fun h => ?_⟩
  · show (encode (.feqS rd rs1 rs2) &&& 0xfe00707f == 0xa0002053) = true
    rw [show (0xfe00707f : Word) = encodeR 0x7f#7 0x0#5 0x0#5 0x7#3 0x0#5 0x7f#7 from rfl]
    simp [encode, encodeR_and]
    rfl
  · show Instr.feqS (rdField (encode (.feqS rd rs1 rs2))) (rs1Field (encode (.feqS rd rs1 rs2))) (rs2Field (encode (.feqS rd rs1 rs2))) = _
    simp [encode]

theorem fltS (rd : XReg) (rs1 rs2 : FReg) : Statement (.fltS rd rs1 rs2) := by
  refine ⟨opcodeRows[20], List.getElem_mem (by decide), ?_, fun h => ?_⟩
  · show (encode (.fltS rd rs1 rs2) &&& 0xfe00707f == 0xa0001053) = true
    rw [show (0xfe00707f : Word) = encodeR 0x7f#7 0x0#5 0x0#5 0x7#3 0x0#5 0x7f#7 from rfl]
    simp [encode, encodeR_and]
    rfl
  · show Instr.fltS (rdField (encode (.fltS rd rs1 rs2))) (rs1Field (encode (.fltS rd rs1 rs2))) (rs2Field (encode (.fltS rd rs1 rs2))) = _
    simp [encode]

theorem fleS (rd : XReg) (rs1 rs2 : FReg) : Statement (.fleS rd rs1 rs2) := by
  refine ⟨opcodeRows[21], List.getElem_mem (by decide), ?_, fun h => ?_⟩
  · show (encode (.fleS rd rs1 rs2) &&& 0xfe00707f == 0xa0000053) = true
    rw [show (0xfe00707f : Word) = encodeR 0x7f#7 0x0#5 0x0#5 0x7#3 0x0#5 0x7f#7 from rfl]
    simp [encode, encodeR_and]
    rfl
  · show Instr.fleS (rdField (encode (.fleS rd rs1 rs2))) (rs1Field (encode (.fleS rd rs1 rs2))) (rs2Field (encode (.fleS rd rs1 rs2))) = _
    simp [encode]

theorem fclassS (rd : XReg) (rs1 : FReg) : Statement (.fclassS rd rs1) := by
  refine ⟨opcodeRows[22], List.getElem_mem (by decide), ?_, fun h => ?_⟩
  · show (encode (.fclassS rd rs1) &&& 0xfff0707f == 0xe0001053) = true
    rw [show (0xfff0707f : Word) = encodeR 0x7f#7 0x1f#5 0x0#5 0x7#3 0x0#5 0x7f#7 from rfl]
    simp [encode, encodeR_and]
    rfl
  · show Instr.fclassS (rdField (encode (.fclassS rd rs1))) (rs1Field (encode (.fclassS rd rs1))) = _
    simp [encode]

theorem fcvtSW (rd : FReg) (rs1 : XReg) (rm : RmField) : Statement (.fcvtSW rd rs1 rm) := by
  refine ⟨opcodeRows[23], List.getElem_mem (by decide), ?_, fun h => ?_⟩
  · show (encode (.fcvtSW rd rs1 rm) &&& 0xfff0007f == 0xd0000053) = true
    rw [show (0xfff0007f : Word) = encodeR 0x7f#7 0x1f#5 0x0#5 0x0#3 0x0#5 0x7f#7 from rfl]
    simp [encode, encodeR_and]
    rfl
  · show Instr.fcvtSW (rdField (encode (.fcvtSW rd rs1 rm))) (rs1Field (encode (.fcvtSW rd rs1 rm))) (rmField (encode (.fcvtSW rd rs1 rm))) = _
    simp [encode]

theorem fcvtSWu (rd : FReg) (rs1 : XReg) (rm : RmField) : Statement (.fcvtSWu rd rs1 rm) := by
  refine ⟨opcodeRows[24], List.getElem_mem (by decide), ?_, fun h => ?_⟩
  · show (encode (.fcvtSWu rd rs1 rm) &&& 0xfff0007f == 0xd0100053) = true
    rw [show (0xfff0007f : Word) = encodeR 0x7f#7 0x1f#5 0x0#5 0x0#3 0x0#5 0x7f#7 from rfl]
    simp [encode, encodeR_and]
    rfl
  · show Instr.fcvtSWu (rdField (encode (.fcvtSWu rd rs1 rm))) (rs1Field (encode (.fcvtSWu rd rs1 rm))) (rmField (encode (.fcvtSWu rd rs1 rm))) = _
    simp [encode]

theorem fmvWX (rd : FReg) (rs1 : XReg) : Statement (.fmvWX rd rs1) := by
  refine ⟨opcodeRows[25], List.getElem_mem (by decide), ?_, fun h => ?_⟩
  · show (encode (.fmvWX rd rs1) &&& 0xfff0707f == 0xf0000053) = true
    rw [show (0xfff0707f : Word) = encodeR 0x7f#7 0x1f#5 0x0#5 0x7#3 0x0#5 0x7f#7 from rfl]
    simp [encode, encodeR_and]
    rfl
  · show Instr.fmvWX (rdField (encode (.fmvWX rd rs1))) (rs1Field (encode (.fmvWX rd rs1))) = _
    simp [encode]

theorem fld (rd : FReg) (rs1 : XReg) (imm : BitVec 12) : Statement (.fld rd rs1 imm) := by
  refine ⟨opcodeRows[26], List.getElem_mem (by decide), ?_, fun h => ?_⟩
  · show (encode (.fld rd rs1 imm) &&& 0x0000707f == 0x00003007) = true
    rw [show (0x0000707f : Word) = encodeI 0x0#12 0x0#5 0x7#3 0x0#5 0x7f#7 from rfl]
    simp [encode, encodeI_and]
    rfl
  · show Instr.fld (rdField (encode (.fld rd rs1 imm))) (rs1Field (encode (.fld rd rs1 imm))) (immI (encode (.fld rd rs1 imm))) = _
    simp [encode]

theorem fsd (rs2 : FReg) (rs1 : XReg) (imm : BitVec 12) : Statement (.fsd rs2 rs1 imm) := by
  refine ⟨opcodeRows[27], List.getElem_mem (by decide), ?_, fun h => ?_⟩
  · show (encode (.fsd rs2 rs1 imm) &&& 0x0000707f == 0x00003027) = true
    rw [show (0x0000707f : Word) = encodeR 0x0#7 0x0#5 0x0#5 0x7#3 0x0#5 0x7f#7 from rfl]
    simp [encode, encodeS_eq, encodeR_and]
    rfl
  · show Instr.fsd (rs2Field (encode (.fsd rs2 rs1 imm))) (rs1Field (encode (.fsd rs2 rs1 imm))) (immS (encode (.fsd rs2 rs1 imm))) = _
    simp [encode]

theorem fmaddD (rd rs1 rs2 rs3 : FReg) (rm : RmField) : Statement (.fmaddD rd rs1 rs2 rs3 rm) := by
  refine ⟨opcodeRows[28], List.getElem_mem (by decide), ?_, fun h => ?_⟩
  · show (encode (.fmaddD rd rs1 rs2 rs3 rm) &&& 0x0600007f == 0x02000043) = true
    rw [show (0x0600007f : Word) = encodeR4 0x0#5 0x3#2 0x0#5 0x0#5 0x0#3 0x0#5 0x7f#7 from rfl]
    simp [encode, encodeR4_and]
    rfl
  · show Instr.fmaddD (rdField (encode (.fmaddD rd rs1 rs2 rs3 rm))) (rs1Field (encode (.fmaddD rd rs1 rs2 rs3 rm))) (rs2Field (encode (.fmaddD rd rs1 rs2 rs3 rm))) (rs3Field (encode (.fmaddD rd rs1 rs2 rs3 rm))) (rmField (encode (.fmaddD rd rs1 rs2 rs3 rm))) = _
    simp [encode]

theorem fmsubD (rd rs1 rs2 rs3 : FReg) (rm : RmField) : Statement (.fmsubD rd rs1 rs2 rs3 rm) := by
  refine ⟨opcodeRows[29], List.getElem_mem (by decide), ?_, fun h => ?_⟩
  · show (encode (.fmsubD rd rs1 rs2 rs3 rm) &&& 0x0600007f == 0x02000047) = true
    rw [show (0x0600007f : Word) = encodeR4 0x0#5 0x3#2 0x0#5 0x0#5 0x0#3 0x0#5 0x7f#7 from rfl]
    simp [encode, encodeR4_and]
    rfl
  · show Instr.fmsubD (rdField (encode (.fmsubD rd rs1 rs2 rs3 rm))) (rs1Field (encode (.fmsubD rd rs1 rs2 rs3 rm))) (rs2Field (encode (.fmsubD rd rs1 rs2 rs3 rm))) (rs3Field (encode (.fmsubD rd rs1 rs2 rs3 rm))) (rmField (encode (.fmsubD rd rs1 rs2 rs3 rm))) = _
    simp [encode]

theorem fnmsubD (rd rs1 rs2 rs3 : FReg) (rm : RmField) : Statement (.fnmsubD rd rs1 rs2 rs3 rm) := by
  refine ⟨opcodeRows[30], List.getElem_mem (by decide), ?_, fun h => ?_⟩
  · show (encode (.fnmsubD rd rs1 rs2 rs3 rm) &&& 0x0600007f == 0x0200004b) = true
    rw [show (0x0600007f : Word) = encodeR4 0x0#5 0x3#2 0x0#5 0x0#5 0x0#3 0x0#5 0x7f#7 from rfl]
    simp [encode, encodeR4_and]
    rfl
  · show Instr.fnmsubD (rdField (encode (.fnmsubD rd rs1 rs2 rs3 rm))) (rs1Field (encode (.fnmsubD rd rs1 rs2 rs3 rm))) (rs2Field (encode (.fnmsubD rd rs1 rs2 rs3 rm))) (rs3Field (encode (.fnmsubD rd rs1 rs2 rs3 rm))) (rmField (encode (.fnmsubD rd rs1 rs2 rs3 rm))) = _
    simp [encode]

theorem fnmaddD (rd rs1 rs2 rs3 : FReg) (rm : RmField) : Statement (.fnmaddD rd rs1 rs2 rs3 rm) := by
  refine ⟨opcodeRows[31], List.getElem_mem (by decide), ?_, fun h => ?_⟩
  · show (encode (.fnmaddD rd rs1 rs2 rs3 rm) &&& 0x0600007f == 0x0200004f) = true
    rw [show (0x0600007f : Word) = encodeR4 0x0#5 0x3#2 0x0#5 0x0#5 0x0#3 0x0#5 0x7f#7 from rfl]
    simp [encode, encodeR4_and]
    rfl
  · show Instr.fnmaddD (rdField (encode (.fnmaddD rd rs1 rs2 rs3 rm))) (rs1Field (encode (.fnmaddD rd rs1 rs2 rs3 rm))) (rs2Field (encode (.fnmaddD rd rs1 rs2 rs3 rm))) (rs3Field (encode (.fnmaddD rd rs1 rs2 rs3 rm))) (rmField (encode (.fnmaddD rd rs1 rs2 rs3 rm))) = _
    simp [encode]

theorem faddD (rd rs1 rs2 : FReg) (rm : RmField) : Statement (.faddD rd rs1 rs2 rm) := by
  refine ⟨opcodeRows[32], List.getElem_mem (by decide), ?_, fun h => ?_⟩
  · show (encode (.faddD rd rs1 rs2 rm) &&& 0xfe00007f == 0x02000053) = true
    rw [show (0xfe00007f : Word) = encodeR 0x7f#7 0x0#5 0x0#5 0x0#3 0x0#5 0x7f#7 from rfl]
    simp [encode, encodeR_and]
    rfl
  · show Instr.faddD (rdField (encode (.faddD rd rs1 rs2 rm))) (rs1Field (encode (.faddD rd rs1 rs2 rm))) (rs2Field (encode (.faddD rd rs1 rs2 rm))) (rmField (encode (.faddD rd rs1 rs2 rm))) = _
    simp [encode]

theorem fsubD (rd rs1 rs2 : FReg) (rm : RmField) : Statement (.fsubD rd rs1 rs2 rm) := by
  refine ⟨opcodeRows[33], List.getElem_mem (by decide), ?_, fun h => ?_⟩
  · show (encode (.fsubD rd rs1 rs2 rm) &&& 0xfe00007f == 0x0a000053) = true
    rw [show (0xfe00007f : Word) = encodeR 0x7f#7 0x0#5 0x0#5 0x0#3 0x0#5 0x7f#7 from rfl]
    simp [encode, encodeR_and]
    rfl
  · show Instr.fsubD (rdField (encode (.fsubD rd rs1 rs2 rm))) (rs1Field (encode (.fsubD rd rs1 rs2 rm))) (rs2Field (encode (.fsubD rd rs1 rs2 rm))) (rmField (encode (.fsubD rd rs1 rs2 rm))) = _
    simp [encode]

theorem fmulD (rd rs1 rs2 : FReg) (rm : RmField) : Statement (.fmulD rd rs1 rs2 rm) := by
  refine ⟨opcodeRows[34], List.getElem_mem (by decide), ?_, fun h => ?_⟩
  · show (encode (.fmulD rd rs1 rs2 rm) &&& 0xfe00007f == 0x12000053) = true
    rw [show (0xfe00007f : Word) = encodeR 0x7f#7 0x0#5 0x0#5 0x0#3 0x0#5 0x7f#7 from rfl]
    simp [encode, encodeR_and]
    rfl
  · show Instr.fmulD (rdField (encode (.fmulD rd rs1 rs2 rm))) (rs1Field (encode (.fmulD rd rs1 rs2 rm))) (rs2Field (encode (.fmulD rd rs1 rs2 rm))) (rmField (encode (.fmulD rd rs1 rs2 rm))) = _
    simp [encode]

theorem fdivD (rd rs1 rs2 : FReg) (rm : RmField) : Statement (.fdivD rd rs1 rs2 rm) := by
  refine ⟨opcodeRows[35], List.getElem_mem (by decide), ?_, fun h => ?_⟩
  · show (encode (.fdivD rd rs1 rs2 rm) &&& 0xfe00007f == 0x1a000053) = true
    rw [show (0xfe00007f : Word) = encodeR 0x7f#7 0x0#5 0x0#5 0x0#3 0x0#5 0x7f#7 from rfl]
    simp [encode, encodeR_and]
    rfl
  · show Instr.fdivD (rdField (encode (.fdivD rd rs1 rs2 rm))) (rs1Field (encode (.fdivD rd rs1 rs2 rm))) (rs2Field (encode (.fdivD rd rs1 rs2 rm))) (rmField (encode (.fdivD rd rs1 rs2 rm))) = _
    simp [encode]

theorem fsqrtD (rd rs1 : FReg) (rm : RmField) : Statement (.fsqrtD rd rs1 rm) := by
  refine ⟨opcodeRows[36], List.getElem_mem (by decide), ?_, fun h => ?_⟩
  · show (encode (.fsqrtD rd rs1 rm) &&& 0xfff0007f == 0x5a000053) = true
    rw [show (0xfff0007f : Word) = encodeR 0x7f#7 0x1f#5 0x0#5 0x0#3 0x0#5 0x7f#7 from rfl]
    simp [encode, encodeR_and]
    rfl
  · show Instr.fsqrtD (rdField (encode (.fsqrtD rd rs1 rm))) (rs1Field (encode (.fsqrtD rd rs1 rm))) (rmField (encode (.fsqrtD rd rs1 rm))) = _
    simp [encode]

theorem fsgnjD (rd rs1 rs2 : FReg) : Statement (.fsgnjD rd rs1 rs2) := by
  refine ⟨opcodeRows[37], List.getElem_mem (by decide), ?_, fun h => ?_⟩
  · show (encode (.fsgnjD rd rs1 rs2) &&& 0xfe00707f == 0x22000053) = true
    rw [show (0xfe00707f : Word) = encodeR 0x7f#7 0x0#5 0x0#5 0x7#3 0x0#5 0x7f#7 from rfl]
    simp [encode, encodeR_and]
    rfl
  · show Instr.fsgnjD (rdField (encode (.fsgnjD rd rs1 rs2))) (rs1Field (encode (.fsgnjD rd rs1 rs2))) (rs2Field (encode (.fsgnjD rd rs1 rs2))) = _
    simp [encode]

theorem fsgnjnD (rd rs1 rs2 : FReg) : Statement (.fsgnjnD rd rs1 rs2) := by
  refine ⟨opcodeRows[38], List.getElem_mem (by decide), ?_, fun h => ?_⟩
  · show (encode (.fsgnjnD rd rs1 rs2) &&& 0xfe00707f == 0x22001053) = true
    rw [show (0xfe00707f : Word) = encodeR 0x7f#7 0x0#5 0x0#5 0x7#3 0x0#5 0x7f#7 from rfl]
    simp [encode, encodeR_and]
    rfl
  · show Instr.fsgnjnD (rdField (encode (.fsgnjnD rd rs1 rs2))) (rs1Field (encode (.fsgnjnD rd rs1 rs2))) (rs2Field (encode (.fsgnjnD rd rs1 rs2))) = _
    simp [encode]

theorem fsgnjxD (rd rs1 rs2 : FReg) : Statement (.fsgnjxD rd rs1 rs2) := by
  refine ⟨opcodeRows[39], List.getElem_mem (by decide), ?_, fun h => ?_⟩
  · show (encode (.fsgnjxD rd rs1 rs2) &&& 0xfe00707f == 0x22002053) = true
    rw [show (0xfe00707f : Word) = encodeR 0x7f#7 0x0#5 0x0#5 0x7#3 0x0#5 0x7f#7 from rfl]
    simp [encode, encodeR_and]
    rfl
  · show Instr.fsgnjxD (rdField (encode (.fsgnjxD rd rs1 rs2))) (rs1Field (encode (.fsgnjxD rd rs1 rs2))) (rs2Field (encode (.fsgnjxD rd rs1 rs2))) = _
    simp [encode]

theorem fminD (rd rs1 rs2 : FReg) : Statement (.fminD rd rs1 rs2) := by
  refine ⟨opcodeRows[40], List.getElem_mem (by decide), ?_, fun h => ?_⟩
  · show (encode (.fminD rd rs1 rs2) &&& 0xfe00707f == 0x2a000053) = true
    rw [show (0xfe00707f : Word) = encodeR 0x7f#7 0x0#5 0x0#5 0x7#3 0x0#5 0x7f#7 from rfl]
    simp [encode, encodeR_and]
    rfl
  · show Instr.fminD (rdField (encode (.fminD rd rs1 rs2))) (rs1Field (encode (.fminD rd rs1 rs2))) (rs2Field (encode (.fminD rd rs1 rs2))) = _
    simp [encode]

theorem fmaxD (rd rs1 rs2 : FReg) : Statement (.fmaxD rd rs1 rs2) := by
  refine ⟨opcodeRows[41], List.getElem_mem (by decide), ?_, fun h => ?_⟩
  · show (encode (.fmaxD rd rs1 rs2) &&& 0xfe00707f == 0x2a001053) = true
    rw [show (0xfe00707f : Word) = encodeR 0x7f#7 0x0#5 0x0#5 0x7#3 0x0#5 0x7f#7 from rfl]
    simp [encode, encodeR_and]
    rfl
  · show Instr.fmaxD (rdField (encode (.fmaxD rd rs1 rs2))) (rs1Field (encode (.fmaxD rd rs1 rs2))) (rs2Field (encode (.fmaxD rd rs1 rs2))) = _
    simp [encode]

theorem fcvtSD (rd rs1 : FReg) (rm : RmField) : Statement (.fcvtSD rd rs1 rm) := by
  refine ⟨opcodeRows[42], List.getElem_mem (by decide), ?_, fun h => ?_⟩
  · show (encode (.fcvtSD rd rs1 rm) &&& 0xfff0007f == 0x40100053) = true
    rw [show (0xfff0007f : Word) = encodeR 0x7f#7 0x1f#5 0x0#5 0x0#3 0x0#5 0x7f#7 from rfl]
    simp [encode, encodeR_and]
    rfl
  · show Instr.fcvtSD (rdField (encode (.fcvtSD rd rs1 rm))) (rs1Field (encode (.fcvtSD rd rs1 rm))) (rmField (encode (.fcvtSD rd rs1 rm))) = _
    simp [encode]

theorem fcvtDS (rd rs1 : FReg) (rm : RmField) : Statement (.fcvtDS rd rs1 rm) := by
  refine ⟨opcodeRows[43], List.getElem_mem (by decide), ?_, fun h => ?_⟩
  · show (encode (.fcvtDS rd rs1 rm) &&& 0xfff0007f == 0x42000053) = true
    rw [show (0xfff0007f : Word) = encodeR 0x7f#7 0x1f#5 0x0#5 0x0#3 0x0#5 0x7f#7 from rfl]
    simp [encode, encodeR_and]
    rfl
  · show Instr.fcvtDS (rdField (encode (.fcvtDS rd rs1 rm))) (rs1Field (encode (.fcvtDS rd rs1 rm))) (rmField (encode (.fcvtDS rd rs1 rm))) = _
    simp [encode]

theorem feqD (rd : XReg) (rs1 rs2 : FReg) : Statement (.feqD rd rs1 rs2) := by
  refine ⟨opcodeRows[44], List.getElem_mem (by decide), ?_, fun h => ?_⟩
  · show (encode (.feqD rd rs1 rs2) &&& 0xfe00707f == 0xa2002053) = true
    rw [show (0xfe00707f : Word) = encodeR 0x7f#7 0x0#5 0x0#5 0x7#3 0x0#5 0x7f#7 from rfl]
    simp [encode, encodeR_and]
    rfl
  · show Instr.feqD (rdField (encode (.feqD rd rs1 rs2))) (rs1Field (encode (.feqD rd rs1 rs2))) (rs2Field (encode (.feqD rd rs1 rs2))) = _
    simp [encode]

theorem fltD (rd : XReg) (rs1 rs2 : FReg) : Statement (.fltD rd rs1 rs2) := by
  refine ⟨opcodeRows[45], List.getElem_mem (by decide), ?_, fun h => ?_⟩
  · show (encode (.fltD rd rs1 rs2) &&& 0xfe00707f == 0xa2001053) = true
    rw [show (0xfe00707f : Word) = encodeR 0x7f#7 0x0#5 0x0#5 0x7#3 0x0#5 0x7f#7 from rfl]
    simp [encode, encodeR_and]
    rfl
  · show Instr.fltD (rdField (encode (.fltD rd rs1 rs2))) (rs1Field (encode (.fltD rd rs1 rs2))) (rs2Field (encode (.fltD rd rs1 rs2))) = _
    simp [encode]

theorem fleD (rd : XReg) (rs1 rs2 : FReg) : Statement (.fleD rd rs1 rs2) := by
  refine ⟨opcodeRows[46], List.getElem_mem (by decide), ?_, fun h => ?_⟩
  · show (encode (.fleD rd rs1 rs2) &&& 0xfe00707f == 0xa2000053) = true
    rw [show (0xfe00707f : Word) = encodeR 0x7f#7 0x0#5 0x0#5 0x7#3 0x0#5 0x7f#7 from rfl]
    simp [encode, encodeR_and]
    rfl
  · show Instr.fleD (rdField (encode (.fleD rd rs1 rs2))) (rs1Field (encode (.fleD rd rs1 rs2))) (rs2Field (encode (.fleD rd rs1 rs2))) = _
    simp [encode]

theorem fclassD (rd : XReg) (rs1 : FReg) : Statement (.fclassD rd rs1) := by
  refine ⟨opcodeRows[47], List.getElem_mem (by decide), ?_, fun h => ?_⟩
  · show (encode (.fclassD rd rs1) &&& 0xfff0707f == 0xe2001053) = true
    rw [show (0xfff0707f : Word) = encodeR 0x7f#7 0x1f#5 0x0#5 0x7#3 0x0#5 0x7f#7 from rfl]
    simp [encode, encodeR_and]
    rfl
  · show Instr.fclassD (rdField (encode (.fclassD rd rs1))) (rs1Field (encode (.fclassD rd rs1))) = _
    simp [encode]

theorem fcvtWD (rd : XReg) (rs1 : FReg) (rm : RmField) : Statement (.fcvtWD rd rs1 rm) := by
  refine ⟨opcodeRows[48], List.getElem_mem (by decide), ?_, fun h => ?_⟩
  · show (encode (.fcvtWD rd rs1 rm) &&& 0xfff0007f == 0xc2000053) = true
    rw [show (0xfff0007f : Word) = encodeR 0x7f#7 0x1f#5 0x0#5 0x0#3 0x0#5 0x7f#7 from rfl]
    simp [encode, encodeR_and]
    rfl
  · show Instr.fcvtWD (rdField (encode (.fcvtWD rd rs1 rm))) (rs1Field (encode (.fcvtWD rd rs1 rm))) (rmField (encode (.fcvtWD rd rs1 rm))) = _
    simp [encode]

theorem fcvtWuD (rd : XReg) (rs1 : FReg) (rm : RmField) : Statement (.fcvtWuD rd rs1 rm) := by
  refine ⟨opcodeRows[49], List.getElem_mem (by decide), ?_, fun h => ?_⟩
  · show (encode (.fcvtWuD rd rs1 rm) &&& 0xfff0007f == 0xc2100053) = true
    rw [show (0xfff0007f : Word) = encodeR 0x7f#7 0x1f#5 0x0#5 0x0#3 0x0#5 0x7f#7 from rfl]
    simp [encode, encodeR_and]
    rfl
  · show Instr.fcvtWuD (rdField (encode (.fcvtWuD rd rs1 rm))) (rs1Field (encode (.fcvtWuD rd rs1 rm))) (rmField (encode (.fcvtWuD rd rs1 rm))) = _
    simp [encode]

theorem fcvtDW (rd : FReg) (rs1 : XReg) (rm : RmField) : Statement (.fcvtDW rd rs1 rm) := by
  refine ⟨opcodeRows[50], List.getElem_mem (by decide), ?_, fun h => ?_⟩
  · show (encode (.fcvtDW rd rs1 rm) &&& 0xfff0007f == 0xd2000053) = true
    rw [show (0xfff0007f : Word) = encodeR 0x7f#7 0x1f#5 0x0#5 0x0#3 0x0#5 0x7f#7 from rfl]
    simp [encode, encodeR_and]
    rfl
  · show Instr.fcvtDW (rdField (encode (.fcvtDW rd rs1 rm))) (rs1Field (encode (.fcvtDW rd rs1 rm))) (rmField (encode (.fcvtDW rd rs1 rm))) = _
    simp [encode]

theorem fcvtDWu (rd : FReg) (rs1 : XReg) (rm : RmField) : Statement (.fcvtDWu rd rs1 rm) := by
  refine ⟨opcodeRows[51], List.getElem_mem (by decide), ?_, fun h => ?_⟩
  · show (encode (.fcvtDWu rd rs1 rm) &&& 0xfff0007f == 0xd2100053) = true
    rw [show (0xfff0007f : Word) = encodeR 0x7f#7 0x1f#5 0x0#5 0x0#3 0x0#5 0x7f#7 from rfl]
    simp [encode, encodeR_and]
    rfl
  · show Instr.fcvtDWu (rdField (encode (.fcvtDWu rd rs1 rm))) (rs1Field (encode (.fcvtDWu rd rs1 rm))) (rmField (encode (.fcvtDWu rd rs1 rm))) = _
    simp [encode]

theorem lui (rd : XReg) (imm : BitVec 20) : Statement (.lui rd imm) := by
  refine ⟨opcodeRows[52], List.getElem_mem (by decide), ?_, fun h => ?_⟩
  · show (encode (.lui rd imm) &&& 0x0000007f == 0x00000037) = true
    rw [show (0x0000007f : Word) = encodeU 0x0#20 0x0#5 0x7f#7 from rfl]
    simp [encode, encodeU_and]
    rfl
  · show Instr.lui (rdField (encode (.lui rd imm))) (immU (encode (.lui rd imm))) = _
    simp [encode]

theorem addi (rd rs1 : XReg) (imm : BitVec 12) : Statement (.addi rd rs1 imm) := by
  refine ⟨opcodeRows[53], List.getElem_mem (by decide), ?_, fun h => ?_⟩
  · show (encode (.addi rd rs1 imm) &&& 0x0000707f == 0x00000013) = true
    rw [show (0x0000707f : Word) = encodeI 0x0#12 0x0#5 0x7#3 0x0#5 0x7f#7 from rfl]
    simp [encode, encodeI_and]
    rfl
  · show Instr.addi (rdField (encode (.addi rd rs1 imm))) (rs1Field (encode (.addi rd rs1 imm))) (immI (encode (.addi rd rs1 imm))) = _
    simp [encode]

theorem add (rd rs1 rs2 : XReg) : Statement (.add rd rs1 rs2) := by
  refine ⟨opcodeRows[54], List.getElem_mem (by decide), ?_, fun h => ?_⟩
  · show (encode (.add rd rs1 rs2) &&& 0xfe00707f == 0x00000033) = true
    rw [show (0xfe00707f : Word) = encodeR 0x7f#7 0x0#5 0x0#5 0x7#3 0x0#5 0x7f#7 from rfl]
    simp [encode, encodeR_and]
    rfl
  · show Instr.add (rdField (encode (.add rd rs1 rs2))) (rs1Field (encode (.add rd rs1 rs2))) (rs2Field (encode (.add rd rs1 rs2))) = _
    simp [encode]

theorem sub (rd rs1 rs2 : XReg) : Statement (.sub rd rs1 rs2) := by
  refine ⟨opcodeRows[55], List.getElem_mem (by decide), ?_, fun h => ?_⟩
  · show (encode (.sub rd rs1 rs2) &&& 0xfe00707f == 0x40000033) = true
    rw [show (0xfe00707f : Word) = encodeR 0x7f#7 0x0#5 0x0#5 0x7#3 0x0#5 0x7f#7 from rfl]
    simp [encode, encodeR_and]
    rfl
  · show Instr.sub (rdField (encode (.sub rd rs1 rs2))) (rs1Field (encode (.sub rd rs1 rs2))) (rs2Field (encode (.sub rd rs1 rs2))) = _
    simp [encode]

theorem slli (rd rs1 : XReg) (shamt : BitVec 5) : Statement (.slli rd rs1 shamt) := by
  refine ⟨opcodeRows[56], List.getElem_mem (by decide), ?_, fun h => ?_⟩
  · show (encode (.slli rd rs1 shamt) &&& 0xfe00707f == 0x00001013) = true
    rw [show (0xfe00707f : Word) = encodeR 0x7f#7 0x0#5 0x0#5 0x7#3 0x0#5 0x7f#7 from rfl]
    simp [encode, encodeR_and]
    rfl
  · show Instr.slli (rdField (encode (.slli rd rs1 shamt))) (rs1Field (encode (.slli rd rs1 shamt))) (rs2Field (encode (.slli rd rs1 shamt))) = _
    simp [encode]

theorem lw (rd rs1 : XReg) (imm : BitVec 12) : Statement (.lw rd rs1 imm) := by
  refine ⟨opcodeRows[57], List.getElem_mem (by decide), ?_, fun h => ?_⟩
  · show (encode (.lw rd rs1 imm) &&& 0x0000707f == 0x00002003) = true
    rw [show (0x0000707f : Word) = encodeI 0x0#12 0x0#5 0x7#3 0x0#5 0x7f#7 from rfl]
    simp [encode, encodeI_and]
    rfl
  · show Instr.lw (rdField (encode (.lw rd rs1 imm))) (rs1Field (encode (.lw rd rs1 imm))) (immI (encode (.lw rd rs1 imm))) = _
    simp [encode]

theorem sw (rs2 rs1 : XReg) (imm : BitVec 12) : Statement (.sw rs2 rs1 imm) := by
  refine ⟨opcodeRows[58], List.getElem_mem (by decide), ?_, fun h => ?_⟩
  · show (encode (.sw rs2 rs1 imm) &&& 0x0000707f == 0x00002023) = true
    rw [show (0x0000707f : Word) = encodeR 0x0#7 0x0#5 0x0#5 0x7#3 0x0#5 0x7f#7 from rfl]
    simp [encode, encodeS_eq, encodeR_and]
    rfl
  · show Instr.sw (rs2Field (encode (.sw rs2 rs1 imm))) (rs1Field (encode (.sw rs2 rs1 imm))) (immS (encode (.sw rs2 rs1 imm))) = _
    simp [encode]

theorem beq (rs1 rs2 : XReg) (off : BitVec 13) : Statement (.beq rs1 rs2 off) := by
  refine ⟨opcodeRows[59], List.getElem_mem (by decide), ?_, fun h => ?_⟩
  · show (encode (.beq rs1 rs2 off) &&& 0x0000707f == 0x00000063) = true
    rw [show (0x0000707f : Word) = encodeR 0x0#7 0x0#5 0x0#5 0x7#3 0x0#5 0x7f#7 from rfl]
    simp [encode, encodeB_eq, encodeR_and]
    rfl
  · have h0 : off.getLsbD 0 = false := by simpa [Instr.wf, evenOffset] using h
    show Instr.beq (rs1Field (encodeB off ..)) (rs2Field (encodeB off ..)) (immB (encodeB off ..)) = _
    rw [rs1Field_encodeB, rs2Field_encodeB, immB_encodeB off _ _ _ _ h0]

theorem bne (rs1 rs2 : XReg) (off : BitVec 13) : Statement (.bne rs1 rs2 off) := by
  refine ⟨opcodeRows[60], List.getElem_mem (by decide), ?_, fun h => ?_⟩
  · show (encode (.bne rs1 rs2 off) &&& 0x0000707f == 0x00001063) = true
    rw [show (0x0000707f : Word) = encodeR 0x0#7 0x0#5 0x0#5 0x7#3 0x0#5 0x7f#7 from rfl]
    simp [encode, encodeB_eq, encodeR_and]
    rfl
  · have h0 : off.getLsbD 0 = false := by simpa [Instr.wf, evenOffset] using h
    show Instr.bne (rs1Field (encodeB off ..)) (rs2Field (encodeB off ..)) (immB (encodeB off ..)) = _
    rw [rs1Field_encodeB, rs2Field_encodeB, immB_encodeB off _ _ _ _ h0]

theorem blt (rs1 rs2 : XReg) (off : BitVec 13) : Statement (.blt rs1 rs2 off) := by
  refine ⟨opcodeRows[61], List.getElem_mem (by decide), ?_, fun h => ?_⟩
  · show (encode (.blt rs1 rs2 off) &&& 0x0000707f == 0x00004063) = true
    rw [show (0x0000707f : Word) = encodeR 0x0#7 0x0#5 0x0#5 0x7#3 0x0#5 0x7f#7 from rfl]
    simp [encode, encodeB_eq, encodeR_and]
    rfl
  · have h0 : off.getLsbD 0 = false := by simpa [Instr.wf, evenOffset] using h
    show Instr.blt (rs1Field (encodeB off ..)) (rs2Field (encodeB off ..)) (immB (encodeB off ..)) = _
    rw [rs1Field_encodeB, rs2Field_encodeB, immB_encodeB off _ _ _ _ h0]

theorem jal (rd : XReg) (off : BitVec 21) : Statement (.jal rd off) := by
  refine ⟨opcodeRows[62], List.getElem_mem (by decide), ?_, fun h => ?_⟩
  · show (encode (.jal rd off) &&& 0x0000007f == 0x0000006f) = true
    rw [show (0x0000007f : Word) = encodeU 0x0#20 0x0#5 0x7f#7 from rfl]
    simp [encode, encodeJ_eq, encodeU_and]
    rfl
  · have h0 : off.getLsbD 0 = false := by simpa [Instr.wf, evenOffset] using h
    show Instr.jal (rdField (encodeJ off ..)) (immJ (encodeJ off ..)) = _
    rw [rdField_encodeJ, immJ_encodeJ off _ _ h0]

theorem jalr (rd rs1 : XReg) (imm : BitVec 12) : Statement (.jalr rd rs1 imm) := by
  refine ⟨opcodeRows[63], List.getElem_mem (by decide), ?_, fun h => ?_⟩
  · show (encode (.jalr rd rs1 imm) &&& 0x0000707f == 0x00000067) = true
    rw [show (0x0000707f : Word) = encodeI 0x0#12 0x0#5 0x7#3 0x0#5 0x7f#7 from rfl]
    simp [encode, encodeI_and]
    rfl
  · show Instr.jalr (rdField (encode (.jalr rd rs1 imm))) (rs1Field (encode (.jalr rd rs1 imm))) (immI (encode (.jalr rd rs1 imm))) = _
    simp [encode]

theorem csrrw (rd : XReg) (csr : BitVec 12) (rs1 : XReg) : Statement (.csrrw rd csr rs1) := by
  refine ⟨opcodeRows[64], List.getElem_mem (by decide), ?_, fun h => ?_⟩
  · show (encode (.csrrw rd csr rs1) &&& 0x0000707f == 0x00001073) = true
    rw [show (0x0000707f : Word) = encodeI 0x0#12 0x0#5 0x7#3 0x0#5 0x7f#7 from rfl]
    simp [encode, encodeI_and]
    rfl
  · show Instr.csrrw (rdField (encode (.csrrw rd csr rs1))) (immI (encode (.csrrw rd csr rs1))) (rs1Field (encode (.csrrw rd csr rs1))) = _
    simp [encode]

theorem csrrs (rd : XReg) (csr : BitVec 12) (rs1 : XReg) : Statement (.csrrs rd csr rs1) := by
  refine ⟨opcodeRows[65], List.getElem_mem (by decide), ?_, fun h => ?_⟩
  · show (encode (.csrrs rd csr rs1) &&& 0x0000707f == 0x00002073) = true
    rw [show (0x0000707f : Word) = encodeI 0x0#12 0x0#5 0x7#3 0x0#5 0x7f#7 from rfl]
    simp [encode, encodeI_and]
    rfl
  · show Instr.csrrs (rdField (encode (.csrrs rd csr rs1))) (immI (encode (.csrrs rd csr rs1))) (rs1Field (encode (.csrrs rd csr rs1))) = _
    simp [encode]

theorem csrrc (rd : XReg) (csr : BitVec 12) (rs1 : XReg) : Statement (.csrrc rd csr rs1) := by
  refine ⟨opcodeRows[66], List.getElem_mem (by decide), ?_, fun h => ?_⟩
  · show (encode (.csrrc rd csr rs1) &&& 0x0000707f == 0x00003073) = true
    rw [show (0x0000707f : Word) = encodeI 0x0#12 0x0#5 0x7#3 0x0#5 0x7f#7 from rfl]
    simp [encode, encodeI_and]
    rfl
  · show Instr.csrrc (rdField (encode (.csrrc rd csr rs1))) (immI (encode (.csrrc rd csr rs1))) (rs1Field (encode (.csrrc rd csr rs1))) = _
    simp [encode]

theorem csrrwi (rd : XReg) (csr : BitVec 12) (uimm : BitVec 5) : Statement (.csrrwi rd csr uimm) := by
  refine ⟨opcodeRows[67], List.getElem_mem (by decide), ?_, fun h => ?_⟩
  · show (encode (.csrrwi rd csr uimm) &&& 0x0000707f == 0x00005073) = true
    rw [show (0x0000707f : Word) = encodeI 0x0#12 0x0#5 0x7#3 0x0#5 0x7f#7 from rfl]
    simp [encode, encodeI_and]
    rfl
  · show Instr.csrrwi (rdField (encode (.csrrwi rd csr uimm))) (immI (encode (.csrrwi rd csr uimm))) (rs1Field (encode (.csrrwi rd csr uimm))) = _
    simp [encode]

theorem csrrsi (rd : XReg) (csr : BitVec 12) (uimm : BitVec 5) : Statement (.csrrsi rd csr uimm) := by
  refine ⟨opcodeRows[68], List.getElem_mem (by decide), ?_, fun h => ?_⟩
  · show (encode (.csrrsi rd csr uimm) &&& 0x0000707f == 0x00006073) = true
    rw [show (0x0000707f : Word) = encodeI 0x0#12 0x0#5 0x7#3 0x0#5 0x7f#7 from rfl]
    simp [encode, encodeI_and]
    rfl
  · show Instr.csrrsi (rdField (encode (.csrrsi rd csr uimm))) (immI (encode (.csrrsi rd csr uimm))) (rs1Field (encode (.csrrsi rd csr uimm))) = _
    simp [encode]

theorem csrrci (rd : XReg) (csr : BitVec 12) (uimm : BitVec 5) : Statement (.csrrci rd csr uimm) := by
  refine ⟨opcodeRows[69], List.getElem_mem (by decide), ?_, fun h => ?_⟩
  · show (encode (.csrrci rd csr uimm) &&& 0x0000707f == 0x00007073) = true
    rw [show (0x0000707f : Word) = encodeI 0x0#12 0x0#5 0x7#3 0x0#5 0x7f#7 from rfl]
    simp [encode, encodeI_and]
    rfl
  · show Instr.csrrci (rdField (encode (.csrrci rd csr uimm))) (immI (encode (.csrrci rd csr uimm))) (rs1Field (encode (.csrrci rd csr uimm))) = _
    simp [encode]

theorem ecall : Statement .ecall := by
  exact ⟨opcodeRows[70], List.getElem_mem (by decide), by decide +kernel, fun _ => rfl⟩

theorem ebreak : Statement .ebreak := by
  exact ⟨opcodeRows[71], List.getElem_mem (by decide), by decide +kernel, fun _ => rfl⟩

end Sys2Proof.Laws.EncodingHitsRow
end

