-- ==== Sys2Proof/Tests/Slice0.lean ====
section
/-! SUPPORT. Checks of the model against the spec's worked values (95_test_vectors.md), one or two single steps per
instruction; smoke tests of well-formedness and decoding; and for every statement with hypotheses a state and operands
that meet them. -/

namespace Sys2Proof.Tests

open Sys2Proof.Machine

-- Elaborate one theorem at a time: many kernel evaluations at once would hold many threads' stacks.
set_option Elab.async false

/-! ## Well-formedness: each check refuses an ill-formed term -/

theorem test_wf_beq_odd_offset : (Instr.beq 1 2 3).wf = false := by decide
theorem test_wf_bne_odd_offset : (Instr.bne 1 2 0x1fff).wf = false := by decide
theorem test_wf_blt_odd_offset : (Instr.blt 1 2 1).wf = false := by decide
theorem test_wf_jal_odd_offset : (Instr.jal 1 0x0fffff).wf = false := by decide
theorem test_wf_branch_even_offset : (Instr.beq 1 2 2).wf = true := by decide

/-! ## Decoding: the word the spec writes out for each row (V-ENC; 47_base_subset.md examples), and back -/

/-- The word and the instruction stand for each other. -/
def pairs (w : Word) (i : Instr) : Bool := decodeWord w == .instr i && encode i == w

theorem test_decode_loads_stores_single :
    pairs 0x0085a507 (.flw 10 11 8) = true ∧
    pairs 0x00c5a427 (.fsw 12 11 8) = true := by decide +kernel

theorem test_decode_fused_single :
    pairs 0x68c5f543 (.fmaddS 10 11 12 13 .dyn) = true ∧
    pairs 0x68c5f547 (.fmsubS 10 11 12 13 .dyn) = true ∧
    pairs 0x68c5f54b (.fnmsubS 10 11 12 13 .dyn) = true ∧
    pairs 0x68c5f54f (.fnmaddS 10 11 12 13 .dyn) = true := by decide +kernel

theorem test_decode_arithmetic_single :
    pairs 0x00c5f553 (.faddS 10 11 12 .dyn) = true ∧
    pairs 0x08c5f553 (.fsubS 10 11 12 .dyn) = true ∧
    pairs 0x10c5f553 (.fmulS 10 11 12 .dyn) = true ∧
    pairs 0x18c5f553 (.fdivS 10 11 12 .dyn) = true ∧
    pairs 0x5805f553 (.fsqrtS 10 11 .dyn) = true ∧
    pairs 0x28c58553 (.fminS 10 11 12) = true ∧
    pairs 0x28c59553 (.fmaxS 10 11 12) = true := by decide +kernel

theorem test_decode_sign_class_single :
    pairs 0x20c58553 (.fsgnjS 10 11 12) = true ∧
    pairs 0x20c59553 (.fsgnjnS 10 11 12) = true ∧
    pairs 0x20c5a553 (.fsgnjxS 10 11 12) = true ∧
    pairs 0xe0059553 (.fclassS 10 11) = true := by decide +kernel

theorem test_decode_compare_single :
    pairs 0xa0c5a553 (.feqS 10 11 12) = true ∧
    pairs 0xa0c59553 (.fltS 10 11 12) = true ∧
    pairs 0xa0c58553 (.fleS 10 11 12) = true := by decide +kernel

theorem test_decode_convert_single :
    pairs 0xc005f553 (.fcvtWS 10 11 .dyn) = true ∧
    pairs 0xc015f553 (.fcvtWuS 10 11 .dyn) = true ∧
    pairs 0xd005f553 (.fcvtSW 10 11 .dyn) = true ∧
    pairs 0xd015f553 (.fcvtSWu 10 11 .dyn) = true ∧
    pairs 0xe0058553 (.fmvXW 10 11) = true ∧
    pairs 0xf0058553 (.fmvWX 10 11) = true := by decide +kernel

theorem test_decode_loads_stores_double :
    pairs 0x0085b507 (.fld 10 11 8) = true ∧
    pairs 0x00c5b427 (.fsd 12 11 8) = true := by decide +kernel

theorem test_decode_fused_double :
    pairs 0x6ac5f543 (.fmaddD 10 11 12 13 .dyn) = true ∧
    pairs 0x6ac5f547 (.fmsubD 10 11 12 13 .dyn) = true ∧
    pairs 0x6ac5f54b (.fnmsubD 10 11 12 13 .dyn) = true ∧
    pairs 0x6ac5f54f (.fnmaddD 10 11 12 13 .dyn) = true := by decide +kernel

theorem test_decode_arithmetic_double :
    pairs 0x02c5f553 (.faddD 10 11 12 .dyn) = true ∧
    pairs 0x0ac5f553 (.fsubD 10 11 12 .dyn) = true ∧
    pairs 0x12c5f553 (.fmulD 10 11 12 .dyn) = true ∧
    pairs 0x1ac5f553 (.fdivD 10 11 12 .dyn) = true ∧
    pairs 0x5a05f553 (.fsqrtD 10 11 .dyn) = true ∧
    pairs 0x2ac58553 (.fminD 10 11 12) = true ∧
    pairs 0x2ac59553 (.fmaxD 10 11 12) = true := by decide +kernel

theorem test_decode_sign_class_double :
    pairs 0x22c58553 (.fsgnjD 10 11 12) = true ∧
    pairs 0x22c59553 (.fsgnjnD 10 11 12) = true ∧
    pairs 0x22c5a553 (.fsgnjxD 10 11 12) = true ∧
    pairs 0xe2059553 (.fclassD 10 11) = true := by decide +kernel

theorem test_decode_compare_double :
    pairs 0xa2c5a553 (.feqD 10 11 12) = true ∧
    pairs 0xa2c59553 (.fltD 10 11 12) = true ∧
    pairs 0xa2c58553 (.fleD 10 11 12) = true := by decide +kernel

theorem test_decode_convert_double :
    pairs 0x4015f553 (.fcvtSD 10 11 .dyn) = true ∧
    pairs 0x4205f553 (.fcvtDS 10 11 .dyn) = true ∧
    pairs 0xc205f553 (.fcvtWD 10 11 .dyn) = true ∧
    pairs 0xc215f553 (.fcvtWuD 10 11 .dyn) = true ∧
    pairs 0xd205f553 (.fcvtDW 10 11 .dyn) = true ∧
    pairs 0xd215f553 (.fcvtDWu 10 11 .dyn) = true := by decide +kernel

theorem test_decode_integer :
    pairs 0x12345537 (.lui 10 0x12345) = true ∧
    pairs 0xff010113 (.addi 2 2 0xff0) = true ∧
    pairs 0x00c58533 (.add 10 11 12) = true ∧
    pairs 0x40c58533 (.sub 10 11 12) = true ∧
    pairs 0x00351593 (.slli 11 10 3) = true ∧
    pairs 0x0045a503 (.lw 10 11 4) = true ∧
    pairs 0xfea12e23 (.sw 10 2 0xffc) = true := by decide +kernel

theorem test_decode_control :
    pairs 0x00b50863 (.beq 10 11 16) = true ∧
    pairs 0xfeb516e3 (.bne 10 11 0x1fec) = true ∧
    pairs 0xfeb54ae3 (.blt 10 11 0x1ff4) = true ∧
    pairs 0x001000ef (.jal 1 2048) = true ∧
    pairs 0x00008067 (.jalr 0 1 0) = true := by decide +kernel

theorem test_decode_system :
    pairs 0x00359573 (.csrrw 10 0x003 11) = true ∧
    pairs 0x00102573 (.csrrs 10 0x001 0) = true ∧
    pairs 0x0015b073 (.csrrc 0 0x001 11) = true ∧
    pairs 0x0020d073 (.csrrwi 0 0x002 1) = true ∧
    pairs 0x00216073 (.csrrsi 0 0x002 2) = true ∧
    pairs 0x001ff073 (.csrrci 0 0x001 31) = true ∧
    pairs 0x00000073 (.ecall) = true ∧
    pairs 0x00100073 (.ebreak) = true := by decide +kernel

theorem test_decode_rounding_modes :
    pairs 0x00c58553 (.faddS 10 11 12 (.static .rne)) = true ∧ pairs 0x00c59553 (.faddS 10 11 12 (.static .rtz)) = true ∧
    pairs 0x00c5a553 (.faddS 10 11 12 (.static .rdn)) = true ∧ pairs 0x00c5b553 (.faddS 10 11 12 (.static .rup)) = true ∧
    pairs 0x00c5c553 (.faddS 10 11 12 (.static .rmm)) = true ∧ pairs 0x00c5d553 (.faddS 10 11 12 .reserved101) = true ∧
    pairs 0x00c5e553 (.faddS 10 11 12 .reserved110) = true := by decide +kernel

theorem test_decode_immediates :
    pairs 0xffc52007 (.flw 0 10 0xffc) = true ∧ pairs 0x7ff03087 (.fld 1 0 0x7ff) = true ∧
    pairs 0x80813027 (.fsd 8 2 0x800) = true ∧ pairs 0xfea52fa7 (.fsw 10 10 0xfff) = true := by decide +kernel

/-- V-ILL-5 to V-ILL-17: words under a floating-point opcode that match no row. -/
theorem test_decode_illegal : (([0x6cc5f543, 0x6ec5f543, 0x04c5f553, 0x06c5f553, 0x5815f553, 0x20c5b553, 0x28c5a553,
    0xa0c5b553, 0xc025f553, 0xd035f553, 0xe005a553, 0xe2058553, 0xf2058553, 0x4005f553, 0x4215f553, 0x00859507, 0x0085c507,
    0x00c58427, 0x30c5f553] : List Word).all fun w => decodeWord w == .illegal w) = true := by decide +kernel

/-- V-ILL-22 to V-ILL-24: words the spec does not describe. -/
theorem test_decode_not_described : (([0x02b50533, 0x0ff0000f, 0x30200073, 0x10500073, 0x00000000, 0xffffffff] :
    List Word).all fun w => decodeWord w == .notDescribed w) = true := by decide +kernel

theorem test_decode_truncated : decodeBytes [0x53, 0xf5, 0xc5] = .truncated := by decide

theorem test_decode_table_word : decodeTableWord 32 0x00c5f553 = some (.faddS 10 11 12 .dyn) := by decide +kernel

/-! ## Single steps -/

/-- The state after one step that runs the word. -/
def after (w : Nat) (s : State) : Option State :=
  match step (s.withFetchWord 32 w) with
  | .next t => some t
  | _ => none

/-- Reset with `f[11]`, `f[12]`, `f[13]` set. -/
def withF (a b c : DWord) : State := ((State.reset.writeF 11 a).writeF 12 b).writeF 13 c

/-- Reset with `x[10]`, `x[11]` set. -/
def withX (a b : Word) : State := (State.reset.writeX 10 a).writeX 11 b

/-- `f[10]`, `fcsr` and `pc` after the word, on three f operands. -/
def toF (w : Nat) (a b c : DWord) : Option (DWord × Word × Word) :=
  (after w (withF a b c)).map fun t => (t.readF 10, t.fcsr, t.pc)

/-- `x[10]`, `fcsr` and `pc` after the word, on two f operands. -/
def toX (w : Nat) (a b : DWord) : Option (Word × Word × Word) :=
  (after w (withF a b 0)).map fun t => (t.readX 10, t.fcsr, t.pc)

/-- `f[10]`, `fcsr` and `pc` after the word, on `x[11]`. -/
def fromX (w : Nat) (v : Word) : Option (DWord × Word × Word) :=
  (after w (withX 0 v)).map fun t => (t.readF 10, t.fcsr, t.pc)

/-! ### Arithmetic, fused, comparisons, conversions, sign injection -/

/-- V-FMA-7 (RTZ), V-FMA-23 (RMM). -/
theorem test_fmadd_s :
    toF 0x68c59543 0x3f800000 0x3f800000 0x33800000 = some (0xffffffff3f800000, 0x1, 0x1004) ∧
    toF 0x68c5c543 0x7fa00000 0x0 0x7f800000 = some (0xffffffff7fc00000, 0x10, 0x1004) := by decide +kernel
/-- V-FMA-13 (RTZ), V-FMA-2 (RMM). -/
theorem test_fmsub_s :
    toF 0x68c59547 0x7f800000 0x3f800000 0x7f800000 = some (0xffffffff7fc00000, 0x10, 0x1004) ∧
    toF 0x68c5c547 0x40000000 0x40400000 0x3f800000 = some (0xffffffff40a00000, 0x0, 0x1004) := by decide +kernel
/-- V-FMA-14 (RTZ), V-FMA-20 (RMM). -/
theorem test_fnmsub_s :
    toF 0x68c5954b 0x7f800000 0x3f800000 0x7f800000 = some (0xffffffff7fc00000, 0x10, 0x1004) ∧
    toF 0x68c5c54b 0x0 0x40400000 0x0 = some (0xffffffff00000000, 0x0, 0x1004) := by decide +kernel
/-- V-FMA-8 (RTZ), V-FMA-19 (RMM). -/
theorem test_fnmadd_s :
    toF 0x68c5954f 0x3f800000 0x3f800000 0x33800000 = some (0xffffffffbf800000, 0x1, 0x1004) ∧
    toF 0x68c5c54f 0x0 0x40400000 0x0 = some (0xffffffff80000000, 0x0, 0x1004) := by decide +kernel
/-- V-AS-2 (RTZ), V-AS-16 (RMM). -/
theorem test_fadd_s :
    toF 0x00c59553 0x3f800000 0x33800000 0x0 = some (0xffffffff3f800000, 0x1, 0x1004) ∧
    toF 0x00c5c553 0x7fffff 0x1 0x0 = some (0xffffffff00800000, 0x0, 0x1004) := by decide +kernel
/-- V-AS-17 (RTZ), V-AS-22 (RMM). -/
theorem test_fsub_s :
    toF 0x08c59553 0x3f800000 0x33000000 0x0 = some (0xffffffff3f7fffff, 0x1, 0x1004) ∧
    toF 0x08c5c553 0x800000 0x7fffff 0x0 = some (0xffffffff00000001, 0x0, 0x1004) := by decide +kernel
/-- V-AS-24 (RTZ), V-AS-33 (RMM). -/
theorem test_fmul_s :
    toF 0x10c59553 0x3f800001 0x3f800001 0x0 = some (0xffffffff3f800002, 0x1, 0x1004) ∧
    toF 0x10c5c553 0x7f800000 0xc0400000 0x0 = some (0xffffffffff800000, 0x0, 0x1004) := by decide +kernel
/-- V-AS-34 (RTZ), V-AS-45 (RMM). -/
theorem test_fdiv_s :
    toF 0x18c59553 0x3f800000 0x40400000 0x0 = some (0xffffffff3eaaaaaa, 0x1, 0x1004) ∧
    toF 0x18c5c553 0x7f000000 0x800000 0x0 = some (0xffffffff7f800000, 0x5, 0x1004) := by decide +kernel
/-- V-AS-47 (RTZ), V-AS-54 (RMM). -/
theorem test_fsqrt_s :
    toF 0x58059553 0x40000000 0x0 0x0 = some (0xffffffff3fb504f3, 0x1, 0x1004) ∧
    toF 0x5805c553 0x7fa00000 0x0 0x0 = some (0xffffffff7fc00000, 0x10, 0x1004) := by decide +kernel
/-- V-SG-1fsgnj, V-SG-6fsgnj. -/
theorem test_fsgnj_s :
    toF 0x20c58553 0x3fc00000 0xc0000000 0x0 = some (0xffffffffbfc00000, 0x0, 0x1004) ∧
    toF 0x20c58553 0x7f800000 0x80000000 0x0 = some (0xffffffffff800000, 0x0, 0x1004) := by decide +kernel
/-- V-SG-1fsgnjn, V-SG-6fsgnjn. -/
theorem test_fsgnjn_s :
    toF 0x20c59553 0x3fc00000 0xc0000000 0x0 = some (0xffffffff3fc00000, 0x0, 0x1004) ∧
    toF 0x20c59553 0x7f800000 0x80000000 0x0 = some (0xffffffff7f800000, 0x0, 0x1004) := by decide +kernel
/-- V-SG-1fsgnjx, V-SG-6fsgnjx. -/
theorem test_fsgnjx_s :
    toF 0x20c5a553 0x3fc00000 0xc0000000 0x0 = some (0xffffffffbfc00000, 0x0, 0x1004) ∧
    toF 0x20c5a553 0x7f800000 0x80000000 0x0 = some (0xffffffffff800000, 0x0, 0x1004) := by decide +kernel
/-- V-AS-62 (RTZ), V-AS-67 (RMM). -/
theorem test_fmin_s :
    toF 0x28c58553 0x7fa00000 0x3f800000 0x0 = some (0xffffffff3f800000, 0x10, 0x1004) ∧
    toF 0x28c58553 0x1 0x80000001 0x0 = some (0xffffffff80000001, 0x0, 0x1004) := by decide +kernel
/-- V-AS-57 (RNE), V-AS-66 (RMM). -/
theorem test_fmax_s :
    toF 0x28c59553 0x3f800000 0x40000000 0x0 = some (0xffffffff40000000, 0x0, 0x1004) ∧
    toF 0x28c59553 0x7f800000 0x7f7fffff 0x0 = some (0xffffffff7f800000, 0x0, 0x1004) := by decide +kernel
/-- V-FI-1 (RTZ), V-FI-15 (RMM). -/
theorem test_fcvt_w_s :
    toX 0xc0059553 0x40200000 0x0 = some (0x2, 0x1, 0x1004) ∧
    toX 0xc005c553 0x7fa00000 0x0 = some (0x7fffffff, 0x10, 0x1004) := by decide +kernel
/-- V-FI-17 (RTZ), V-FI-22 (RMM). -/
theorem test_fcvt_wu_s :
    toX 0xc0159553 0xbf800000 0x0 = some (0x0, 0x10, 0x1004) ∧
    toX 0xc015c553 0x4f000000 0x0 = some (0x80000000, 0x0, 0x1004) := by decide +kernel
/-- V-CS-11feq, V-CS-7feq. -/
theorem test_feq_s :
    toX 0xa0c5a553 0x7fa00000 0x3f800000 = some (0x0, 0x10, 0x1004) ∧
    toX 0xa0c5a553 0x7f800000 0x7f800000 = some (0x1, 0x0, 0x1004) := by decide +kernel
/-- V-CS-8flt, V-CS-14flt. -/
theorem test_flt_s :
    toX 0xa0c59553 0x7fc00000 0x3f800000 = some (0x0, 0x10, 0x1004) ∧
    toX 0xa0c59553 0x7f7fffff 0x7f800000 = some (0x1, 0x0, 0x1004) := by decide +kernel
/-- V-CS-8fle, V-CS-14fle. -/
theorem test_fle_s :
    toX 0xa0c58553 0x7fc00000 0x3f800000 = some (0x0, 0x10, 0x1004) ∧
    toX 0xa0c58553 0x7f7fffff 0x7f800000 = some (0x1, 0x0, 0x1004) := by decide +kernel
/-- V-IF-5 (RTZ), V-IF-8 (RMM). -/
theorem test_fcvt_s_w :
    fromX 0xd0059553 0x1000001 = some (0xffffffff4b800000, 0x1, 0x1004) ∧
    fromX 0xd005c553 0x80000000 = some (0xffffffffcf000000, 0x0, 0x1004) := by decide +kernel
/-- V-IF-4 (RTZ), V-IF-9 (RMM). -/
theorem test_fcvt_s_wu :
    fromX 0xd0159553 0xffffffff = some (0xffffffff4f7fffff, 0x1, 0x1004) ∧
    fromX 0xd015c553 0x80000000 = some (0xffffffff4f000000, 0x0, 0x1004) := by decide +kernel
/-- V-FMAD-6 (RTZ), V-FMAD-7 (RMM). -/
theorem test_fmadd_d :
    toF 0x6ac59543 0x7ff0000000000000 0x0 0x7ff8000000000000 = some (0x7ff8000000000000, 0x10, 0x1004) ∧
    toF 0x6ac5c543 0x7fefffffffffffff 0x4000000000000000 0xffefffffffffffff = some (0x7fefffffffffffff, 0x0, 0x1004) := by decide +kernel
/-- V-FMAD-3 (RNE). -/
theorem test_fmsub_d :
    toF 0x6ac58547 0x3ff0000002000000 0x3ff0000002000000 0x3ff0000004000000 = some (0x3c90000000000000, 0x0, 0x1004) := by decide +kernel
/-- V-FMAD-4 (RNE). -/
theorem test_fnmsub_d :
    toF 0x6ac5854b 0x3ff8000000000000 0x4000000000000000 0x4008000000000000 = some (0x0, 0x0, 0x1004) := by decide +kernel
/-- V-FMAD-5 (RNE). -/
theorem test_fnmadd_d :
    toF 0x6ac5854f 0x3ff8000000000000 0x4000000000000000 0x4008000000000000 = some (0xc018000000000000, 0x0, 0x1004) := by decide +kernel
/-- V-AD-1 (RTZ), V-AD-7 (RMM). -/
theorem test_fadd_d :
    toF 0x02c59553 0x3fb999999999999a 0x3fc999999999999a 0x0 = some (0x3fd3333333333333, 0x1, 0x1004) ∧
    toF 0x02c5c553 0xffffffff3f800000 0x3ff0000000000000 0x0 = some (0x7ff8000000000000, 0x0, 0x1004) := by decide +kernel
/-- V-AD-8 (RTZ), V-AD-9 (RMM). -/
theorem test_fsub_d :
    toF 0x0ac59553 0x3ff0000000000000 0x3c90000000000000 0x0 = some (0x3fefffffffffffff, 0x1, 0x1004) ∧
    toF 0x0ac5c553 0x3fd3333333333333 0x3fb999999999999a 0x0 = some (0x3fc9999999999999, 0x0, 0x1004) := by decide +kernel
/-- V-AD-10 (RTZ), V-AD-14 (RMM). -/
theorem test_fmul_d :
    toF 0x12c59553 0x3fb999999999999a 0x4008000000000000 0x0 = some (0x3fd3333333333333, 0x1, 0x1004) ∧
    toF 0x12c5c553 0x0 0xfff0000000000000 0x0 = some (0x7ff8000000000000, 0x10, 0x1004) := by decide +kernel
/-- V-AD-15 (RTZ), V-AD-18 (RMM). -/
theorem test_fdiv_d :
    toF 0x1ac59553 0x3ff0000000000000 0x4008000000000000 0x0 = some (0x3fd5555555555555, 0x1, 0x1004) ∧
    toF 0x1ac5c553 0x0 0x8000000000000000 0x0 = some (0x7ff8000000000000, 0x10, 0x1004) := by decide +kernel
/-- V-AD-19 (RTZ), V-AD-22 (RMM). -/
theorem test_fsqrt_d :
    toF 0x5a059553 0x4000000000000000 0x0 0x0 = some (0x3ff6a09e667f3bcc, 0x1, 0x1004) ∧
    toF 0x5a05c553 0x1 0x0 0x0 = some (0x1e60000000000000, 0x0, 0x1004) := by decide +kernel
/-- V-SG-7fsgnj, V-SG-10fsgnj. -/
theorem test_fsgnj_d :
    toF 0x22c58553 0x3ff8000000000000 0xc000000000000000 0x0 = some (0xbff8000000000000, 0x0, 0x1004) ∧
    toF 0x22c58553 0xffffffff3f800000 0x0 0x0 = some (0x7fffffff3f800000, 0x0, 0x1004) := by decide +kernel
/-- V-SG-7fsgnjn, V-SG-10fsgnjn. -/
theorem test_fsgnjn_d :
    toF 0x22c59553 0x3ff8000000000000 0xc000000000000000 0x0 = some (0x3ff8000000000000, 0x0, 0x1004) ∧
    toF 0x22c59553 0xffffffff3f800000 0x0 0x0 = some (0xffffffff3f800000, 0x0, 0x1004) := by decide +kernel
/-- V-SG-7fsgnjx, V-SG-10fsgnjx. -/
theorem test_fsgnjx_d :
    toF 0x22c5a553 0x3ff8000000000000 0xc000000000000000 0x0 = some (0xbff8000000000000, 0x0, 0x1004) ∧
    toF 0x22c5a553 0xffffffff3f800000 0x0 0x0 = some (0xffffffff3f800000, 0x0, 0x1004) := by decide +kernel
/-- V-AD-23 (RNE), V-AD-25 (RMM). -/
theorem test_fmin_d :
    toF 0x2ac58553 0xbff8000000000000 0x4004000000000000 0x0 = some (0xbff8000000000000, 0x0, 0x1004) ∧
    toF 0x2ac58553 0x7ff8000000000000 0x4004000000000000 0x0 = some (0x4004000000000000, 0x0, 0x1004) := by decide +kernel
/-- V-AD-26 (RTZ), V-AD-24 (RMM). -/
theorem test_fmax_d :
    toF 0x2ac59553 0x7ff0000000000001 0x4004000000000000 0x0 = some (0x4004000000000000, 0x10, 0x1004) ∧
    toF 0x2ac59553 0x8000000000000000 0x0 0x0 = some (0x0, 0x0, 0x1004) := by decide +kernel
/-- V-FF-8 (RTZ), V-FF-22 (RMM). -/
theorem test_fcvt_s_d :
    toF 0x40159553 0x3fb999999999999a 0x0 0x0 = some (0xffffffff3dcccccc, 0x1, 0x1004) ∧
    toF 0x4015c553 0x8000000000000000 0x0 0x0 = some (0xffffffff80000000, 0x0, 0x1004) := by decide +kernel
/-- V-FF-6 (RTZ), V-FF-4 (RMM). -/
theorem test_fcvt_d_s :
    toF 0x42059553 0x7fa00000 0x0 0x0 = some (0x7ff8000000000000, 0x10, 0x1004) ∧
    toF 0x4205c553 0x80000000 0x0 0x0 = some (0x8000000000000000, 0x0, 0x1004) := by decide +kernel
/-- V-CD-5feq, V-CD-3feq. -/
theorem test_feq_d :
    toX 0xa2c5a553 0x7ff0000000000001 0x0 = some (0x0, 0x10, 0x1004) ∧
    toX 0xa2c5a553 0x8000000000000000 0x0 = some (0x1, 0x0, 0x1004) := by decide +kernel
/-- V-CD-4flt, V-CD-7flt. -/
theorem test_flt_d :
    toX 0xa2c59553 0x7ff8000000000000 0x0 = some (0x0, 0x10, 0x1004) ∧
    toX 0xa2c59553 0x3ff0000000000000 0x3ff0000000000001 = some (0x1, 0x0, 0x1004) := by decide +kernel
/-- V-CD-4fle, V-CD-7fle. -/
theorem test_fle_d :
    toX 0xa2c58553 0x7ff8000000000000 0x0 = some (0x0, 0x10, 0x1004) ∧
    toX 0xa2c58553 0x3ff0000000000000 0x3ff0000000000001 = some (0x1, 0x0, 0x1004) := by decide +kernel
/-- V-FI-26 (RTZ), V-FI-28 (RMM). -/
theorem test_fcvt_w_d :
    toX 0xc2059553 0x41dfffffffe00000 0x0 = some (0x7fffffff, 0x1, 0x1004) ∧
    toX 0xc205c553 0xc1e0000000200000 0x0 = some (0x80000000, 0x10, 0x1004) := by decide +kernel
/-- V-FI-33 (RTZ), V-FI-35 (RMM). -/
theorem test_fcvt_wu_d :
    toX 0xc2159553 0x41effffffff00000 0x0 = some (0xffffffff, 0x1, 0x1004) ∧
    toX 0xc215c553 0xbfeccccccccccccd 0x0 = some (0x0, 0x10, 0x1004) := by decide +kernel
/-- V-IF-11 (RNE), V-IF-14 (RMM). -/
theorem test_fcvt_d_w :
    fromX 0xd2058553 0x7fffffff = some (0x41dfffffffc00000, 0x0, 0x1004) ∧
    fromX 0xd205c553 0xffffffff = some (0xbff0000000000000, 0x0, 0x1004) := by decide +kernel
/-- V-IF-13 (RNE), V-IF-15 (RMM). -/
theorem test_fcvt_d_wu :
    fromX 0xd2158553 0xffffffff = some (0x41efffffffe00000, 0x0, 0x1004) ∧
    fromX 0xd215c553 0x0 = some (0x0, 0x0, 0x1004) := by decide +kernel

/-- V-MV-4, V-MV-6. -/
theorem test_fmv_x_w : toX 0xe0058553 0xffffffffbf800000 0 = some (0xbf800000, 0, 0x1004) ∧
    toX 0xe0058553 0x123456787fc00001 0 = some (0x7fc00001, 0, 0x1004) := by decide +kernel
/-- V-MV-2. -/
theorem test_fmv_w_x : fromX 0xf0058553 0x7fa00001 = some (0xffffffff7fa00001, 0, 0x1004) := by decide +kernel
/-- S-9, single. -/
theorem test_fclass_s : ([0xff800000, 0xbf800000, 0x80000001, 0x80000000, 0x00000000, 0x007fffff, 0x00800000, 0x7f800000,
    0x7f800001, 0xffc00000] : List Word).map (classMask binary32) =
    [0x001, 0x002, 0x004, 0x008, 0x010, 0x020, 0x040, 0x080, 0x100, 0x200] := by decide +kernel
/-- S-9, double. -/
theorem test_fclass_d : ([0xfff0000000000000, 0xc000000000000000, 0x800fffffffffffff, 0x8000000000000000, 0,
    0x0000000000000001, 0x7fefffffffffffff, 0x7ff0000000000000, 0xfff4000000000000, 0x7ff8000000000000] : List DWord).map
    (classMask binary64) = [0x001, 0x002, 0x004, 0x008, 0x010, 0x020, 0x040, 0x080, 0x100, 0x200] := by decide +kernel
/-- The boxed single 0xffffffff3f800000 under `fclass.s` and `fclass.d` (S-9). -/
theorem test_fclass_boxed : toX 0xe0059553 0xffffffff3f800000 0 = some (0x040, 0, 0x1004) ∧
    toX 0xe2059553 0xffffffff3f800000 0 = some (0x200, 0, 0x1004) := by decide +kernel

/-! ### Loads and stores (V-LS) -/

/-- `MEM.data` = 0x8000 to 0x801f, byte 0x8000 + i = i, `x[10]` and `f[1]` set. -/
def dataState (a0 : Word) (f1 : DWord) : State :=
  { (State.reset.writeX 10 a0).writeF 1 f1 with
    mem := (List.range 31).map fun i => (0x8001 + i, BitVec.ofNat 8 (i + 1))
    launch := { Launch.reset with data := [⟨0x8000, 32⟩] } }

/-- The trap record after the word. -/
def trapAfter (w : Nat) (s : State) : Option (Option TrapRecord) := (after w s).map fun t => t.trap

/-- V-LS-1. -/
theorem test_flw_1 : (after 0x00452007 (dataState 0x8000 0)).map (fun t => (t.readF 0, t.pc)) =
    some (0xffffffff07060504, 0x1004) := by decide +kernel
/-- V-LS-3. -/
theorem test_flw_2 : (after 0xffc52007 (dataState 0x8010 0)).map (fun t => t.readF 0) = some 0xffffffff0f0e0d0c := by
  decide +kernel
/-- V-LS-2. -/
theorem test_fld_1 : (after 0x00853007 (dataState 0x8000 0)).map (fun t => t.readF 0) = some 0x0f0e0d0c0b0a0908 := by
  decide +kernel
/-- V-LS-10: a multiple of 4 but not of 8. -/
theorem test_fld_2 : trapAfter 0x00453007 (dataState 0x8000 0) =
    some (some ⟨.loadAddressMisaligned, some 0x8004, 0x1000⟩) := by decide +kernel
/-- V-LS-4: the low half only. -/
theorem test_fsw_1 : (after 0x00152027 (dataState 0x8000 0x123456789abcdef0)).map (fun t => Memory.readDouble t.mem 0x8000) =
    some 0x070605049abcdef0 := by decide +kernel
/-- V-LS-12. -/
theorem test_fsw_2 : trapAfter 0x001520a7 (dataState 0x8000 0) =
    some (some ⟨.storeAddressMisaligned, some 0x8001, 0x1000⟩) := by decide +kernel
/-- V-LS-5. -/
theorem test_fsd_1 : (after 0x00153827 (dataState 0x8000 0x123456789abcdef0)).map
    (fun t => (Memory.readDouble t.mem 0x8010, Memory.read t.mem 0x800f, Memory.read t.mem 0x8018)) =
    some (0x123456789abcdef0, 0x0f, 0x18) := by decide +kernel
/-- V-LS-15: the last four bytes absent, none written. -/
theorem test_fsd_2 : (after 0x00153c27
    { dataState 0x8000 0 with launch := { Launch.reset with data := [⟨0x8000, 0x1c⟩] } }).map
    (fun t => (t.trap, Memory.read t.mem 0x8019)) =
    some (some ⟨.storeAccessFault, some 0x8018, 0x1000⟩, 0x19) := by decide +kernel
/-- V-LS-13. -/
theorem test_flw_absent : trapAfter 0x02052007 (dataState 0x8000 0) =
    some (some ⟨.loadAccessFault, some 0x8020, 0x1000⟩) := by decide +kernel
/-- V-LS-18: program text is not data. -/
theorem test_fld_text : trapAfter 0x00053007 (withX 0x1000 0) =
    some (some ⟨.loadAccessFault, some 0x1000, 0x1000⟩) := by decide +kernel
/-- P5b under `MISALIGNED = emulate`: the eight bytes at 0x8004. -/
theorem test_fld_emulated : (after 0x00453007
    { dataState 0x8000 0 with launch := ⟨[], [⟨0x8000, 32⟩], 0, { Params.default with misaligned := .emulate }⟩ }).map
    (fun t => t.readF 0) = some 0x0b0a090807060504 := by decide +kernel
/-- `lw a0, 4(a1)` on the same bytes (R174). -/
theorem test_lw : (after 0x0045a503 ((dataState 0 0).writeX 11 0x8000)).map (fun t => t.readX 10) = some 0x07060504 := by
  decide +kernel
/-- `sw a0, -4(sp)` (R175). -/
theorem test_sw : (after 0xfea12e23 ((dataState 0xdeadbeef 0).writeX 2 0x8010)).map
    (fun t => (Memory.readWord t.mem 0x800c, Memory.read t.mem 0x8010, Memory.read t.mem 0x800b)) =
    some (0xdeadbeef, 0x10, 0x0b) := by decide +kernel

/-! ### Base subset (47_base_subset.md, examples) -/

/-- `x[10]` and `pc` after the word, on `x[10]`, `x[11]`. -/
def intAfter (w : Nat) (a b : Word) : Option (Word × Word) := (after w (withX a b)).map fun t => (t.readX 10, t.pc)

theorem test_lui : intAfter 0x12345537 0 0 = some (0x12345000, 0x1004) := by decide +kernel
theorem test_addi : intAfter 0xfff50513 0 0 = some (0xffffffff, 0x1004) := by decide +kernel
/-- `add a0, a0, a1`: 0xffffffff + 1 wraps. -/
theorem test_add : intAfter 0x00b50533 0xffffffff 1 = some (0, 0x1004) := by decide +kernel
/-- `sub a0, a0, a1`: 0 - 1. -/
theorem test_sub : intAfter 0x40b50533 0 1 = some (0xffffffff, 0x1004) := by decide +kernel
/-- `slli a1, a0, 3`. -/
theorem test_slli : (after 0x00351593 (withX 0x20000005 0)).map (fun t => t.readX 11) = some 0x28 := by decide +kernel
theorem test_beq : intAfter 0x00b50863 7 7 = some (7, 0x1010) ∧ intAfter 0x00b50863 7 8 = some (7, 0x1004) := by
  decide +kernel
theorem test_bne : intAfter 0xfeb516e3 7 8 = some (7, 0xfec) ∧ intAfter 0xfeb516e3 7 7 = some (7, 0x1004) := by
  decide +kernel
/-- -1 < 1, signed. -/
theorem test_blt : intAfter 0xfeb54ae3 0xffffffff 1 = some (0xffffffff, 0xff4) ∧
    intAfter 0xfeb54ae3 1 0xffffffff = some (1, 0x1004) := by decide +kernel
theorem test_jal : (after 0x001000ef State.reset).map (fun t => (t.readX 1, t.pc)) = some (0x1004, 0x1800) := by
  decide +kernel
/-- `jalr a0, 4(a0)`: the base is read before the link is written. -/
theorem test_jalr_1 : intAfter 0x00450567 0x2001 0 = some (0x1004, 0x2004) := by decide +kernel
/-- V-TRAP-6. -/
theorem test_jalr_2 : trapAfter 0x00250067 (withX 0x1000 0) =
    some (some ⟨.instructionAddressMisaligned, some 0x1002, 0x1000⟩) := by decide +kernel

/-! ### CSRs and the environment (V-CSR, V-TRAP) -/

/-- `x[10]` and `fcsr` after the word, on `fcsr` and `x[11]`. -/
def csrAfter (w : Nat) (fcsr a1 : Word) : Option (Word × Word) :=
  (after w ((withX 0 a1).setFcsr fcsr)).map fun t => (t.readX 10, t.fcsr)

/-- V-CSR-4, V-CSR-5. -/
theorem test_csrrw : csrAfter 0x00359573 0xb5 0xffffff41 = some (0xb5, 0x41) ∧
    csrAfter 0x00259573 0x1f 0x0b = some (0, 0x7f) := by decide +kernel
/-- V-CSR-9, V-CSR-2. -/
theorem test_csrrs : csrAfter 0x0015a573 1 0x10 = some (1, 0x11) ∧ csrAfter 0x00202573 0xb5 0 = some (5, 0xb5) := by
  decide +kernel
/-- V-CSR-10. -/
theorem test_csrrc : csrAfter 0x0015b573 0x1f 3 = some (0x1f, 0x1c) := by decide +kernel
/-- V-CSR-7, V-CSR-8. -/
theorem test_csrrwi : csrAfter 0x0020d573 0x80 0 = some (4, 0x20) ∧ csrAfter 0x00105573 0x9f 0 = some (0x1f, 0x80) := by
  decide +kernel
/-- V-CSR-12. -/
theorem test_csrrsi : csrAfter 0x00226573 0 0 = some (0, 0x80) := by decide +kernel
/-- V-CSR-11. -/
theorem test_csrrci : csrAfter 0x00187073 0xf0 0 = some (0, 0xe0) := by decide +kernel
/-- V-CSR-14. -/
theorem test_csr_refused : exec (.csrrs 10 0x004 0) State.reset = .refused (.csrNotDescribed 0x004) := rfl
/-- V-TRAP-4. -/
theorem test_ecall : trapAfter 0x00000073 State.reset = some (some ⟨.environmentCall, none, 0x1000⟩) := by decide +kernel
/-- V-TRAP-5. -/
theorem test_ebreak : trapAfter 0x00100073 State.reset = some (some ⟨.breakpoint, some 0x1000, 0x1000⟩) := by decide +kernel
/-- V-TRAP-3. -/
theorem test_dynamic_mode_trap : trapAfter 0x000071d3 (State.reset.setFcsr 0xa0) =
    some (some ⟨.illegalInstruction, some 0x000071d3, 0x1000⟩) := by decide +kernel
/-- S-1: the dynamic mode is read from `frm`; here RUP. -/
theorem test_dynamic_mode : (after 0x00c5f553 ((withF 0x3f800000 0x33800001 0).setFcsr 0x60)).map (fun t => (t.readF 10, t.fcsr)) =
    some (0xffffffff3f800001, 0x61) := by decide +kernel

/-! ### The other parameter settings -/

/-- A state with the given parameters. -/
def underParams (p : Params) (s : State) : State := { s with launch := { s.launch with params := p } }

/-- `BOX_CHECK = check`: an unboxed operand reads as the canonical NaN (10_state.md R19). -/
theorem test_box_check : (after 0x00c58553 (underParams { Params.default with boxCheck := .check }
    (withF 0x3f800000 0xffffffff3f800000 0))).map (fun t => (t.readF 10, t.fcsr)) = some (0xffffffff7fc00000, 0) := by
  decide +kernel
/-- `MINMAX = minnum2008`: a signaling operand gives the NaN and NV (40_numerics.md R94). -/
theorem test_minnum2008 : (after 0x28c58553 (underParams { Params.default with minMax := .minnum2008 }
    (withF 0x7f800001 0x40000000 0))).map (fun t => (t.readF 10, t.fcsr)) = some (0xffffffff7fc00000, 0x10) := by
  decide +kernel
/-- `FNM_PAIRING = literal`: `fnmadd.s` of 1, 2, 3 is -(1*2) + 3 (43_fused.md, introduction). -/
theorem test_fnm_literal : (after 0x68c5854f (underParams { Params.default with fnmPairing := .literal }
    (withF 0x3f800000 0x40000000 0x40400000))).map (fun t => t.readF 10) = some 0xffffffff3f800000 := by decide +kernel

/-! ## Runs end -/

/-- V-TRAP-7: the fetch past the text. -/
theorem test_fetch_absent : (match step (State.reset.setPc 0x1004) with
    | .next t => t.trap
    | _ => none) = some ⟨.instructionAccessFault, some 0x1004, 0x1004⟩ := by decide +kernel
theorem test_trapped_stops : step (State.reset.takeTrap .breakpoint none) = .fault .trapped := rfl
theorem test_halted_stops : step (State.reset.setPc 0) = .fault .halted := rfl

/-! ## Witnesses: the hypotheses of each statement can be met -/

theorem reset_inv : State.reset.Inv := ⟨rfl, by decide, by decide, by decide, by decide +kernel, by decide⟩

/-- A state that meets the premises of a launch. -/
theorem test_witness_ResetMeetsTheInvariant : State.reset.IsLaunch :=
  ⟨by decide +kernel, fun a h => by
    cases ht : textByte? State.reset.launch.text a with
    | none => rfl
    | some b => simp [Launch.inData, ht] at h, by decide, by decide +kernel, by decide, by decide, by decide, rfl, rfl⟩

theorem test_witness_RowsSelectThemselves : ∃ r ∈ opcodeRows, r.hits 0x00c5f553 = true := by decide +kernel
theorem test_witness_DecodeOfEncode : (Instr.beq 31 31 0x1ffe).wf = true ∧ (Instr.jal 31 0x1ffffe).wf = true := by decide
theorem test_witness_EncodeOfDecode : decodeWord 0xfe0594e3 = .instr (.bne 11 0 0x1fe8) := by decide +kernel
/-- The reset state with a word to fetch. -/
def placed (w : Word) : State := State.reset.withFetchWord 32 w.toNat
theorem test_witness_UnmatchedFloatingPointWordTraps : ((placed 0x30c5f553).trap = none ∧
    (placed 0x30c5f553).pc ≠ (placed 0x30c5f553).launch.haltPc) ∧ opcodeField 0x30c5f553 ∈ fpOpcodes ∧
    (∀ r ∈ opcodeRows, r.hits 0x30c5f553 = false) := by decide +kernel
theorem test_witness_fetch : (placed 0x30c5f553).fetch = .ok 0x30c5f553 := rfl
theorem test_witness_WordsUnderOtherOpcodes : opcodeField 0x02b50533 ∉ fpOpcodes ∧
    (∀ r ∈ opcodeRows, r.hits 0x02b50533 = false) ∧ opcodeField 0x00b50533 ∉ fpOpcodes ∧
    (∃ r ∈ opcodeRows, r.hits 0x00b50533 = true) ∧ opcodeField 0x30c5f553 ∈ fpOpcodes := by decide +kernel
theorem test_witness_FetchReadsFourTextBytes : (State.reset.setPc 0x1002).pc.toNat % 4 ≠ 0 ∧
    ((State.reset.setPc 0x1004).pc.toNat % 4 = 0 ∧ textByte? State.reset.launch.text 0x1004 = none) ∧
    ((placed 0x00c5f553).pc.toNat % 4 = 0 ∧
      textByte? (placed 0x00c5f553).launch.text ((placed 0x00c5f553).pc.toNat + 0) = some 0x53 ∧
      textByte? (placed 0x00c5f553).launch.text ((placed 0x00c5f553).pc.toNat + 1) = some 0xf5 ∧
      textByte? (placed 0x00c5f553).launch.text ((placed 0x00c5f553).pc.toNat + 2) = some 0xc5 ∧
      textByte? (placed 0x00c5f553).launch.text ((placed 0x00c5f553).pc.toNat + 3) = some 0x00) := by decide +kernel
/-- The word past the end of the text. -/
theorem test_witness_failed_fetch : (State.reset.setPc 0x1004).running ∧
    (State.reset.setPc 0x1004).fetch = .error .instructionAccessFault :=
  ⟨⟨rfl, by decide⟩, rfl⟩
theorem test_witness_StepRunsTheDecodedInstruction : (placed 0x00c5f553).running ∧
    decodeBytes [0x53, 0xf5, 0xc5, 0x00] = .instr (.faddS 10 11 12 .dyn) := ⟨⟨rfl, by decide +kernel⟩, by decide +kernel⟩
theorem test_witness_EndedRunsStop : (State.reset.takeTrap .breakpoint none).trap ≠ none ∧
    ((State.reset.setPc 0).trap = none ∧ (State.reset.setPc 0).pc = (State.reset.setPc 0).launch.haltPc) := by decide +kernel
/-- Also for `LaunchNeverChanges`. -/
theorem test_witness_EveryStepKeepsTheInvariant : (placed 0xfff50513).Inv ∧ ∃ t, step (placed 0xfff50513) = .next t :=
  ⟨⟨rfl, by decide +kernel, by decide +kernel, by decide +kernel, by decide +kernel, by decide +kernel⟩, _, rfl⟩
theorem test_witness_TrapKeepsTheStateBefore : ∃ t, step (placed 0x00000073) = .next t ∧ t.trap ≠ none :=
  ⟨_, rfl, by decide +kernel⟩
/-- Also for `FrameOfEveryInstruction`, `ResultsDoNotReadTheFlags` and, its mode being static, for
`OnlyDynamicRoundingReadsFrm` and `DefaultsDrawNothing`. -/
theorem test_witness_FlagsOnlyAccumulate : (Instr.faddS 1 2 3 (.static .rdn)).isCsr = false ∧
    (Instr.faddS 1 2 3 (.static .rdn)).roundingField? ≠ some .dyn ∧ Params.draws State.reset.launch.params = false ∧
    ∃ t, exec (.faddS 1 2 3 (.static .rdn)) State.reset = .next t :=
  ⟨by decide, by decide, by decide, _, rfl⟩
/-- A store that lands, for the memory clause of `FrameOfEveryInstruction`. -/
theorem test_witness_FrameOfEveryInstruction : (Instr.fsd 1 0 0xff8).store? = some ⟨0, 0xff8, 8⟩ ∧
    ∃ t, exec (.fsd 1 0 0xff8) State.reset = .next t := ⟨by decide, _, rfl⟩
theorem test_witness_InvalidRoundingModeTraps : (Instr.fcvtDS 1 2 .dyn).roundingField? = some .dyn ∧
    (State.reset.setFcsr 0xa0).refusesRounding .dyn ∧ (State.reset.setFcsr 0xff).refusesRounding .dyn ∧
    State.reset.refusesRounding .reserved101 ∧ State.reset.refusesRounding .reserved110 :=
  ⟨by decide, .inr (.inr ⟨rfl, by decide⟩), .inr (.inr ⟨rfl, by decide⟩), .inl rfl, .inr (.inl rfl)⟩
/-- -1 < 0, signed; and each branch both ways. -/
theorem test_witness_Branches : (withX 5 5).readX 10 = (withX 5 5).readX 11 ∧ (withX 5 6).readX 10 ≠ (withX 5 6).readX 11 ∧
    ((withX 0xffffffff 0).readX 10).toInt < ((withX 0xffffffff 0).readX 11).toInt ∧
    ((withX 5 5).readX 11).toInt ≤ ((withX 5 5).readX 10).toInt ∧
    ((withX 5 5).pc + (0x1000 : BitVec 13).signExtend 32).toNat % 4 = 0 := by decide +kernel
theorem test_witness_Jumps : (State.reset.pc + (0x1ffffc : BitVec 21).signExtend 32).toNat % 4 = 0 ∧
    (((withX 0x2001 0).readX 10 + (0 : BitVec 12).signExtend 32) &&& ~~~(1 : Word)).toNat % 4 = 0 := by decide +kernel
theorem test_witness_MisalignedTargetsTrap : (State.reset.pc + (2 : BitVec 13).signExtend 32).toNat % 4 ≠ 0 ∧
    (State.reset.pc + (0x1ffffe : BitVec 21).signExtend 32).toNat % 4 ≠ 0 ∧
    (((withX 0x1000 0).readX 10 + (2 : BitVec 12).signExtend 32) &&& ~~~(1 : Word)).toNat % 4 ≠ 0 ∧
    (withX 5 5).readX 10 = (withX 5 5).readX 11 ∧ (withX 5 6).readX 10 ≠ (withX 5 6).readX 11 ∧
    ((withX 0xffffffff 0).readX 10).toInt < ((withX 0xffffffff 0).readX 11).toInt := by decide +kernel
/-- The last word and the last doubleword of the address space; also for `StoresComplete`. -/
theorem test_witness_LoadsComplete : State.reset.accessAllowed (State.reset.readX 0 + (0xffc : BitVec 12).signExtend 32) 4 ∧
    State.reset.accessAllowed (State.reset.readX 0 + (0xff8 : BitVec 12).signExtend 32) 8 :=
  ⟨⟨.inl (by decide), by decide +kernel⟩, ⟨.inl (by decide), by decide +kernel⟩⟩
theorem test_witness_StoresComplete : State.reset.accessAllowed (State.reset.effectiveAddress 0 0xffc) 4 ∧
    State.reset.accessAllowed (State.reset.effectiveAddress 0 0xff8) 8 :=
  ⟨⟨.inl (by decide), by decide +kernel⟩, ⟨.inl (by decide), by decide +kernel⟩⟩
/-- One byte past a multiple; one byte below the end of the data. -/
theorem test_witness_RefusedAccessesTrap : State.reset.accessMisaligned (State.reset.effectiveAddress 0 1) 4 ∧
    State.reset.accessMisaligned (State.reset.effectiveAddress 0 4) 8 ∧
    (dataState 0x8020 0).accessAbsent ((dataState 0x8020 0).effectiveAddress 10 0) 4 ∧
    (dataState 0x8020 0).accessAbsent ((dataState 0x8020 0).effectiveAddress 10 0) 8 ∧
    textByte? (placed 0x00c5f553).launch.text 0x1000 = some 0x53 :=
  ⟨⟨rfl, by decide⟩, ⟨rfl, by decide⟩, ⟨.inl (by decide +kernel), 3, by decide, by decide +kernel⟩,
    ⟨.inl (by decide +kernel), 7, by decide, by decide +kernel⟩, by decide +kernel⟩
/-- A static mode and the dynamic one, `frm` at its last valid value; for every statement of an instruction that
rounds: `ArithmeticCompletes`, `FusedCompletes`, `ConversionsAndMovesComplete`. -/
theorem test_witness_ArithmeticCompletes : State.reset.roundsWith (.static .rmm) .rmm ∧
    (State.reset.setFcsr 0x80).roundsWith .dyn .rmm ∧ State.reset.roundsWith .dyn .rne :=
  ⟨.inl rfl, .inr ⟨rfl, by decide⟩, .inr ⟨rfl, by decide⟩⟩
theorem test_witness_FusedCompletes : State.reset.launch.params.fnmPairing = .isa ∧
    (underParams { Params.default with fnmPairing := .literal } State.reset).launch.params.fnmPairing = .literal ∧
    (underParams { Params.default with fnmPairing := .literal } State.reset).roundsWith (.static .rtz) .rtz :=
  ⟨rfl, rfl, .inl rfl⟩
theorem test_witness_CsrInstructions : csrOfNumber 0x001 = some .fflags ∧ csrOfNumber 0x003 = some .fcsr ∧
    ((0x000 : BitVec 12) ≠ 0x001 ∧ (0x000 : BitVec 12) ≠ 0x002 ∧ (0x000 : BitVec 12) ≠ 0x003) ∧
    ((0x004 : BitVec 12) ≠ 0x001 ∧ (0x004 : BitVec 12) ≠ 0x002 ∧ (0x004 : BitVec 12) ≠ 0x003) := by decide
theorem test_witness_EnvironmentInstructions : opcodeField 0x30200073 = 0b1110011 ∧ funct3Field 0x30200073 = 0b000 := by
  decide
theorem test_witness_BoxedSingleReadsBack : State.reset.launch.params.boxWrite = .ones ∧
    State.reset.launch.params.boxCheck = .ignore ∧
    (underParams { Params.default with boxCheck := .check } State.reset).launch.params.boxCheck = .check ∧
    (State.reset.readF 0).extractLsb' 32 32 ≠ 0xffffffff := by decide +kernel
/-- The last doubleword of the address space. -/
theorem test_witness_MixedWidthAccesses : (State.reset.effectiveAddress 0 0xff8).toNat % 8 = 0 ∧
    State.reset.accessAllowed (State.reset.effectiveAddress 0 0xff8) 8 ∧
    State.reset.effectiveAddress 0 0xffc = State.reset.effectiveAddress 0 0xff8 + 4 :=
  ⟨by decide, ⟨.inl (by decide), by decide +kernel⟩, by decide⟩
theorem test_witness_SpecialOperandsGiveTheSpecialResults : isNaN binary32 (0x7f800001 : Word) = true ∧
    isNaN binary64 (0x7ff8000000000000 : DWord) = true ∧ isSignaling binary64 (0x7ff8000000000000 : DWord) = false ∧
    (isInf binary32 (0x7f800000 : Word) && isZero binary32 (0x80000000 : Word)) = true ∧
    ((isInf binary32 (0x7f800000 : Word) && isZero binary32 (0x3f800000 : Word)) ||
      (isZero binary32 (0x7f800000 : Word) && isInf binary32 (0x3f800000 : Word))) = false := by decide +kernel
/-- The clauses on infinite and zero operands and on the root of a negative; the two settings of NAN_RESULT. -/
theorem test_witness_SpecialOperandsGiveTheSpecialResults_finite : isInf binary32 (0x7f800000 : Word) = true ∧
    isInf binary32 (0xff800000 : Word) = true ∧ signBit binary32 (0x7f800000 : Word) = false ∧
    isFinite binary32 (0x7f7fffff : Word) = true ∧ isZero binary32 (0x80000000 : Word) = true ∧
    isNaN binary32 (0x80000001 : Word) = false ∧ isZero binary32 (0x80000001 : Word) = false ∧
    signBit binary32 (0x80000001 : Word) = true ∧ State.reset.launch.params.nanResult = .canonical ∧
    (underParams { Params.default with nanResult := .draw } State.reset).launch.params.nanResult = .draw := by
  decide +kernel
/-- The least magnitude that overflows under RNE, half a step above the greatest finite one. -/
theorem test_witness_OverflowFollowsTheTable :
    overflows binary32 (pick .rne false ((Magnitude.ratio (2 ^ 25 - 1) 1 103).onGrid
      (unboundedGrid binary32 (.ratio (2 ^ 25 - 1) 1 103)))) (unboundedGrid binary32 (.ratio (2 ^ 25 - 1) 1 103)) = true ∧
    overflows binary64 (pick .rtz false ((Magnitude.ratio 1 1 1024).onGrid
      (unboundedGrid binary64 (.ratio 1 1 1024)))) (unboundedGrid binary64 (.ratio 1 1 1024)) = true := by decide +kernel
theorem test_witness_isStandard : isStandard binary32 32 ∧ isStandard binary64 64 := ⟨.inl ⟨rfl, rfl⟩, .inr ⟨rfl, rfl⟩⟩
/-- Half a step below the least normal, where UF is raised under `before` alone (V-FF-16), and the step below it, where
it is raised under both. -/
theorem test_witness_UnderflowFollowsTininess : (Magnitude.ratio (2 ^ 25 - 1) 1 (-151)).positive = true ∧
    (roundMagnitude binary32 .before .rne false (.ratio (2 ^ 25 - 1) 1 (-151)) : Word × FlagSet) = (0x00800000, 0b00011) ∧
    (roundMagnitude binary32 .after .rne false (.ratio (2 ^ 25 - 1) 1 (-151)) : Word × FlagSet) = (0x00800000, 0b00001) ∧
    (roundMagnitude binary32 .after .rne false (.ratio (2 ^ 26 - 3) 1 (-152)) : Word × FlagSet) = (0x00800000, 0b00011) ∧
    tinyReal binary32 .after .rne false (.ratio (2 ^ 25 - 1) 1 (-151)) = false ∧
    tinyReal binary32 .after .rne false (.ratio (2 ^ 26 - 3) 1 (-152)) = true := by decide +kernel
theorem test_witness_ZeroSigns : (Magnitude.ratio 1 3 (-200)).positive = true ∧
    isZero binary32 (roundMagnitude binary32 .after .rne true (.ratio 1 3 (-200)) : Word × FlagSet).1 = true ∧
    ((valueOf binary32 (0x3f800000 : Word)).add ((valueOf binary32 (0x3f800000 : Word)).negIf true)).num = 0 ∧
    isZero binary32 (roundNum binary32 .after .rtz ⟨-1, -200⟩ : Word × FlagSet).1 = true ∧
    ((valueOf binary32 (0x3f800000 : Word)).add (valueOf binary32 (0xbf800000 : Word))).num = 0 ∧
    (((((valueOf binary32 (0x3f800000 : Word)).mul (valueOf binary32 (0x40000000 : Word))).negIf true).add
      ((valueOf binary32 (0x40000000 : Word)).negIf false)).num = 0) ∧ isZero binary32 (0x80000000 : Word) = true ∧
    isFinite binary32 (0x7f7fffff : Word) = true ∧ isInf binary32 (0xff800000 : Word) = true ∧
    isNaN binary32 (0xff800000 : Word) = false ∧ isZero binary32 (0xff800000 : Word) = false := by decide +kernel
theorem test_witness_GridPositionIsExact : ratioOnGrid 7 2 = (3, .half) ∧ rootOnGrid 2 1 = (1, .belowHalf) ∧
    rootOnGrid 9 1 = (3, .exact) ∧ rootOnGrid 9 4 = (1, .half) := by decide +kernel
/-- The least subnormal and the greatest finite pattern. -/
theorem test_witness_RepresentableValuesRoundToThemselves : isFinite binary32 (0x80000001 : Word) = true ∧
    isZero binary32 (0x80000001 : Word) = false ∧ isFinite binary64 (0x7fefffffffffffff : DWord) = true ∧
    isZero binary64 (0x7fefffffffffffff : DWord) = false := by decide +kernel
theorem test_witness_RoundingSeesOnlyTheValue : (⟨12, -1⟩ : BinNum).num ≠ 0 ∧ BinNum.sameValue ⟨12, -1⟩ ⟨3, 1⟩ := by
  constructor
  · decide
  · show BinNum.beq _ _ = true
    decide +kernel
/-- -inf, +inf, a greatest finite result, and the neighbours of 1/3. -/
theorem test_witness_DirectedRoundingIsTight : (Magnitude.ratio 1 3 0).positive = true ∧
    isInf binary32 (roundMagnitude binary32 .after .rdn true (.ratio 1 1 200) : Word × FlagSet).1 = true ∧
    isInf binary32 (roundMagnitude binary32 .after .rup false (.ratio 1 1 200) : Word × FlagSet).1 = true ∧
    isFinite binary32 (roundMagnitude binary32 .after .rdn false (.ratio 1 1 200) : Word × FlagSet).1 = true ∧
    (roundMagnitude binary32 .after .rdn false (.ratio 1 3 0) : Word × FlagSet) = (0x3eaaaaaa, 0b00001) ∧
    leReal (valueOf binary32 (0x3eaaaaaa : Word)) false (.ratio 1 3 0) = true ∧
    realLe false (.ratio 1 3 0) (valueOf binary32 (0x3eaaaaab : Word)) = true := by decide +kernel
/-- A tie: 2^24 + 1 lies half way between 0x4b800000 and 0x4b800001; and the two sides of the overflow midpoint. -/
theorem test_witness_NearestModesPickTheNearer : (Magnitude.ratio (2 ^ 24 + 1) 1 0).positive = true ∧
    (roundMagnitude binary32 .after .rdn false (.ratio (2 ^ 24 + 1) 1 0) : Word × FlagSet).1 = 0x4b800000 ∧
    (roundMagnitude binary32 .after .rup false (.ratio (2 ^ 24 + 1) 1 0) : Word × FlagSet).1 = 0x4b800001 ∧
    (BinNum.half ⟨2 ^ 25 + 2, 0⟩).beq
      ((valueOf binary32 (0x4b800000 : Word)).add (valueOf binary32 (0x4b800001 : Word))).half = true ∧
    leReal binary32.overflowMidpoint false (.ratio (2 ^ 25 - 1) 1 103) = true ∧
    leReal binary32.overflowMidpoint false (.ratio (2 ^ 26 - 3) 1 102) = false := by decide +kernel
/-- An exact result, an inexact quotient and an overflow. -/
theorem test_witness_InexactExactlyWhenTheResultDiffers : (Magnitude.root 2 0).positive = true ∧
    (roundMagnitude binary32 .after .rne false (.ratio 3 2 0) : Word × FlagSet) = (0x3fc00000, 0) ∧
    (roundMagnitude binary32 .after .rne false (.root 2 0) : Word × FlagSet) = (0x3fb504f3, 0b00001) ∧
    (roundMagnitude binary32 .after .rne false (.ratio 1 1 128) : Word × FlagSet).2 = 0b00101 := by decide +kernel
/-- Also for `MinMaxBoundTheirOperands`: zeros of opposite sign, one NaN, two NaNs. -/
theorem test_witness_ComparisonsFollowTheOrder : isNaN binary32 (0x80000000 : Word) = false ∧
    isNaN binary32 (0x7f800000 : Word) = false ∧ isNaN binary32 (0x7f800001 : Word) = true ∧
    isZero binary32 (0x80000000 : Word) = true ∧ isZero binary32 (0 : Word) = true := by decide +kernel
theorem test_witness_MinMaxBoundTheirOperands : (State.reset.envS).minMax = .number ∧
    (underParams { Params.default with minMax := .minnum2008 } State.reset).envS.minMax = .minnum2008 ∧
    isSignaling binary32 (0x7f800001 : Word) = true ∧ isSignaling binary32 (0xffc00000 : Word) = false ∧
    (isZero binary32 (0x80000000 : Word) = true ∧ isZero binary32 (0 : Word) = true ∧ (0x80000000 : Word) ≠ 0) ∧
    isNaN binary32 (0xffc00000 : Word) = true ∧ isNaN binary32 (0xff800000 : Word) = false := by decide +kernel
theorem test_witness_MultiplyingByOneIsExact : isNaN binary32 (0x00000001 : Word) = false ∧
    (oneOf binary32 : Word) = 0x3f800000 ∧ (oneOf binary64 : DWord) = 0x3ff0000000000000 := by decide +kernel
theorem test_witness_SquareRootIsTheRoundedRoot : isFinite binary64 (1 : DWord) = true ∧ isZero binary64 (1 : DWord) = false ∧
    signBit binary64 (1 : DWord) = false := by decide +kernel
theorem test_witness_IntegersConvertToFloating : intOfWord true 0 = 0 ∧ intOfWord true 0x80000000 ≠ 0 ∧
    intOfWord false 0xffffffff ≠ 0 ∧ (intOfWord false 0x01000000).natAbs ≤ 2 ^ 24 := by decide +kernel
theorem test_witness_SingleToDoubleIsExact : isNaN binary32 (0x00000001 : Word) = false ∧
    isFinite binary32 (0x00000001 : Word) = true ∧ isNaN binary32 (0xff800000 : Word) = false := by decide +kernel
/-- -0.25 toward zero, 1.5 down, the tie 2.5, 2^32 out of range, a NaN. -/
theorem test_witness_ConversionToIntegerRounds : isFinite binary32 (0xbe800000 : Word) = true ∧
    isFinite binary32 (0x7fc00000 : Word) = false ∧
    (toIntF binary32 .rtz false (0xbe800000 : Word)) = (0, 0b00001) ∧
    (toIntF binary32 .rdn true (0x3fc00000 : Word)) = (1, 0b00001) ∧
    (toIntF binary32 .rne true (0x40200000 : Word)) = (2, 0b00001) ∧
    (toIntF binary32 .rmm true (0x40200000 : Word)) = (3, 0b00001) ∧
    (toIntF binary32 .rne false (0x4f800000 : Word)) = (0xffffffff, 0b10000) ∧
    (toIntF binary32 .rne true (0x7fc00000 : Word)) = (0x7fffffff, 0b10000) := by decide +kernel
theorem test_witness_FlagsWithinTheTable : isFinite binary32 (0x00000001 : Word) = true ∧
    isZero binary32 (0x00000001 : Word) = false ∧ isZero binary32 (0x80000000 : Word) = true := by decide +kernel
/-- The greatest and the least magnitude; sum, difference and fused value not zero. -/
theorem test_witness_FiniteArithmeticRoundsTheExactResult : isFinite binary32 (0x7f7fffff : Word) = true ∧
    isZero binary32 (0x7f7fffff : Word) = false ∧ isFinite binary32 (0x80000001 : Word) = true ∧
    isZero binary32 (0x80000001 : Word) = false ∧
    ((valueOf binary32 (0x7f7fffff : Word)).add (valueOf binary32 (0x80000001 : Word))).num ≠ 0 ∧
    ((valueOf binary32 (0x7f7fffff : Word)).add ((valueOf binary32 (0x80000001 : Word)).negIf true)).num ≠ 0 ∧
    (((((valueOf binary32 (0x7f7fffff : Word)).mul (valueOf binary32 (0x80000001 : Word))).negIf true).add
      ((valueOf binary32 (0 : Word)).negIf false)).num ≠ 0) ∧
    isFinite binary32 (divF binary32 (NumEnv.mk .after 0 .number false) .rdn (0x3f800000 : Word) (0x40400000 : Word)).1 =
      true := by decide +kernel

end Sys2Proof.Tests
end

section
/-! What a step is when its four text bytes decode (00_scope.md R11; 70_reset_and_hazards.md R216). -/

namespace Sys2Proof.Machine

/-! ### From the text bytes to the step (20_memory.md R38; 00_scope.md R11) -/

/-- Four program-text bytes make the text word, least significant byte first (20_memory.md R38). -/
theorem textWord?_of_bytes {t : List Host.Cell} {a : Nat} {b0 b1 b2 b3 : Byte}
    (h0 : textByte? t a = some b0) (h1 : textByte? t (a + 1) = some b1)
    (h2 : textByte? t (a + 2) = some b2) (h3 : textByte? t (a + 3) = some b3) :
    textWord? t a = some (wordOfBytes b0 b1 b2 b3) := by
  rw [textWord?, h0, h1, h2, h3]

/-- A running state whose word is fetched runs that word, with nothing before or after it. -/
theorem step_of_fetch_ok {s : State} {w : Word} (hr : s.running) (hf : s.fetch = .ok w) : step s = runWord w s := by
  rw [step_of_running hr, fetchAndRun, hf]

theorem runWord_of_instr {w : Word} {i : Instr} (hd : decodeWord w = .instr i) (s : State) : runWord w s = exec i s := by
  rw [runWord, hd]

/-- The decoder reads exactly four bytes as the word fetch assembles from them. -/
theorem decodeBytes_four (b0 b1 b2 b3 : Byte) : decodeBytes [b0, b1, b2, b3] = decodeWord (wordOfBytes b0 b1 b2 b3) := rfl

/-- Settles O8: fetch and the decoder assemble the same word from the four bytes, and a running step runs it. -/
theorem stepRunsTheDecodedInstruction : Obligations.StepRunsTheDecodedInstruction := by
  intro s b0 b1 b2 b3 i hr ha h0 h1 h2 h3 hd
  have hf : s.fetch = .ok (wordOfBytes b0 b1 b2 b3) := State.fetch_of_some ha (textWord?_of_bytes h0 h1 h2 h3)
  have hw : decodeWord (wordOfBytes b0 b1 b2 b3) = .instr i := (decodeBytes_four b0 b1 b2 b3).symm.trans hd
  calc step s = runWord (wordOfBytes b0 b1 b2 b3) s := step_of_fetch_ok hr hf
    _ = exec i s := runWord_of_instr hw s

end Sys2Proof.Machine
end

section
/-! The registers, `fcsr` and a launch by themselves (10_state.md R14 to R31, R34; 70_reset_and_hazards.md R213). -/

namespace Sys2Proof.Machine

/-! ### Singles in f registers (10_state.md R19, R20) -/

/-- What a single-precision read makes of a boxed pattern: its low half, unless a check finds the box broken. -/
theorem unboxS_append (c : BoxCheck) (h v : Word) (hc : c = .check → h = 0xffffffff) : unboxS c (h ++ v) = v := by
  cases c with
  | ignore => simp [unboxS]
  | check => simp [unboxS, hc rfl]

theorem unboxS_check_of_not_boxed {v : DWord} (h : highHalf v ≠ 0xffffffff) : unboxS .check v = canonicalNaN32 :=
  if_neg h

theorem State.upperHalf_of_ones {s : State} (h : s.launch.params.boxWrite = .ones) : s.upperHalf = 0xffffffff := by
  rw [State.upperHalf, h]

theorem State.readS_writeS_same (s : State) (r : FReg) (v : Word) :
    (s.writeS r v).readS r = unboxS s.launch.params.boxCheck (s.upperHalf ++ v) := by
  simp [State.readS, s.readF_writeS]

/-- Settles O39: the written upper half passes the check, or nothing checks it. -/
theorem boxedSingleReadsBack : Obligations.BoxedSingleReadsBack := by
  intro s r v
  refine ⟨fun h => ?_, fun hc hbox => ?_⟩
  · rw [s.readS_writeS_same]
    apply unboxS_append
    intro hcheck
    rcases h with hones | hignore
    · exact State.upperHalf_of_ones hones
    · rw [hignore] at hcheck; contradiction
  · rw [State.readS, hc]
    exact unboxS_check_of_not_boxed hbox

/-! ### The two register files (10_state.md R14, R16, R21, R23) -/

/-- Settles O37, from what each file reads after a write to either. -/
theorem registerFiles : Obligations.RegisterFiles := fun s d v u =>
  ⟨s.readX_zero, fun r => s.readX_writeX d r v, fun r => s.readF_writeX d v r, fun r => s.readF_writeF d r u,
    fun r => s.readX_writeF d u r⟩

/-! ### Flags and CSRs (10_state.md R29, R30) -/

@[simp] theorem State.accrue_noFlags (s : State) : s.accrue noFlags = s := by
  simp [State.accrue, State.setFcsr, noFlags]

/-- A CSR write is a write of `fcsr`. -/
theorem State.writeCsr_eq_setFcsr (s : State) (c : Csr) (v : Word) :
    s.writeCsr c v = s.setFcsr (s.writeCsr c v).fcsr := by
  cases c <;> rfl

/-- Settles O38: both updates of `fcsr`, field by field. -/
theorem accrueAndCsrFields : Obligations.AccrueAndCsrFields :=
  ⟨fun s fl => ⟨s.accrued_accrue fl, congrArg State.fcsr s.accrue_noFlags, rfl⟩, rfl, rfl, rfl,
    fun s => ⟨rfl, rfl, rfl, fun c v => ⟨s.csrWritten_writeCsr c v, s.writeCsr_eq_setFcsr c v⟩⟩⟩

/-! ### The launch (70_reset_and_hazards.md R213) -/

/-- Program text is not data (20_memory.md R43). -/
theorem Launch.textByte?_of_inData {l : Launch} {a : Nat} (h : l.inData a = true) : textByte? l.text a = none := by
  simp only [Launch.inData, Bool.and_eq_true, Option.isNone_iff_eq_none] at h
  exact h.2

theorem State.IsLaunch.inv {s : State} (h : s.IsLaunch) : s.Inv where
  mem := h.mem
  fcsr := h.fcsr
  zero := h.zero
  pc := h.entry
  text := h.text
  halt := h.halt

theorem State.isLaunch_reset : State.reset.IsLaunch where
  text := by simp [State.reset, Launch.reset]
  disjoint _ h := Launch.textByte?_of_inData h
  entry := rfl
  entryText := by decide
  halt := rfl
  zero := rfl
  fcsr := rfl
  mem := Memory.wf_reset
  fresh := rfl

/-- Settles O12: the premises are checked on reset, and they contain the invariant. -/
theorem resetMeetsTheInvariant : Obligations.ResetMeetsTheInvariant :=
  ⟨State.isLaunch_reset, State.isLaunch_reset.inv, rfl, State.isLaunch_reset.fcsr, State.isLaunch_reset.fresh,
    fun _ h => h.inv⟩

end Sys2Proof.Machine
end

section
/-! All an instruction can do: every row ends in one of the shared operations of Machine/Operands.lean, with the registers
and the bytes its fields name. -/

namespace Sys2Proof.Machine

/-! ### The ways an instruction ends -/

/-- How instruction `i` can end in state `s`: a trap, a refusal, or one of the operations that complete an instruction, on
the destination or the store slot that `i` names (00_scope.md R11; 10_state.md R22). -/
inductive EndsWith (i : Instr) (s : State) : Result → Prop where
  | raised (c : Cause) (tval : Option Word) : EndsWith i s (raise s c tval)
  | refused (r : Refusal) : EndsWith i s (.refused r)
  | finishX {rd : XReg} {r : Word × FlagSet} (hd : i.destX? = some rd) : EndsWith i s (finishX s rd r)
  | finishS {rd : FReg} {r : Word × FlagSet} (hd : i.destF? = some rd) : EndsWith i s (finishS s rd r)
  | finishD {rd : FReg} {r : DWord × FlagSet} (hd : i.destF? = some rd) : EndsWith i s (finishD s rd r)
  | writeX {rd : XReg} {v : Word} (hd : i.destX? = some rd) : EndsWith i s (writeXNext s rd v)
  | writeS {rd : FReg} {v : Word} (hd : i.destF? = some rd) : EndsWith i s (writeSNext s rd v)
  | writeD {rd : FReg} {v : DWord} (hd : i.destF? = some rd) : EndsWith i s (writeDNext s rd v)
  | storeWord {b : XReg} {off : BitVec 12} {v : Word} (hst : i.store? = some ⟨b, off, 4⟩)
      (ha : s.accessAllowed (s.effectiveAddress b off) 4) :
      EndsWith i s (storeNext s (Memory.writeWord s.mem (s.effectiveAddress b off).toNat v))
  | storeDouble {b : XReg} {off : BitVec 12} {v : DWord} (hst : i.store? = some ⟨b, off, 8⟩)
      (ha : s.accessAllowed (s.effectiveAddress b off) 8) :
      EndsWith i s (storeNext s (Memory.writeDouble s.mem (s.effectiveAddress b off).toNat v))
  | fellThrough : EndsWith i s (.next s.advance)
  | jumped {target : Word} (ht : target.toNat % 4 = 0) : EndsWith i s (.next (s.setPc target))
  | linked {rd : XReg} {target : Word} (hd : i.destX? = some rd) (ht : target.toNat % 4 = 0) :
      EndsWith i s (.next ((s.writeX rd (s.pc + 4)).setPc target))
  | csr {rd : XReg} {c : Csr} {new : Option Word} (hc : i.isCsr = true) (hd : i.destX? = some rd) :
      EndsWith i s (csrNext s rd c new)

namespace EndsWith

variable {i : Instr} {s : State}

theorem withRounding {j : Instr} {rm : RmField} {k : RoundingMode → Result} (h : ∀ m, EndsWith i s (k m)) :
    EndsWith i s (withRounding j rm s k) := by
  rcases withRounding_cases j rm s k with ⟨m, -, hm⟩ | ⟨-, hr⟩
  · rw [hm]; exact h m
  · rw [hr]; exact .raised _ _

theorem withLoad {ea : Word} {n : Nat} {k : Result} (h : EndsWith i s k) : EndsWith i s (withLoad s ea n k) := by
  rcases withLoad_cases s ea n k with ⟨-, hk⟩ | ⟨c, hr⟩
  · rw [hk]; exact h
  · rw [hr]; exact .raised _ _

theorem withStore {ea : Word} {n : Nat} {k : Result} (h : s.accessAllowed ea n → EndsWith i s k) :
    EndsWith i s (withStore s ea n k) := by
  rcases withStore_cases s ea n k with ⟨ha, hk⟩ | ⟨c, hr⟩
  · rw [hk]; exact h ha
  · rw [hr]; exact .raised _ _

theorem transfer {target : Word} {pre : State}
    (h : target.toNat % 4 = 0 → EndsWith i s (.next (pre.setPc target))) : EndsWith i s (transfer s target pre) := by
  by_cases ht : target.toNat % 4 = 0
  · rw [transfer_of_aligned ht]; exact h ht
  · rw [transfer_of_misaligned ht]; exact .raised _ _

theorem branchIf {off : BitVec 13} {taken : Bool} : EndsWith i s (branchIf s off taken) := by
  cases taken with
  | false => exact .fellThrough
  | true => exact .transfer .jumped

theorem withCsr {n : BitVec 12} {k : Csr → Result} (h : ∀ c, EndsWith i s (k c)) : EndsWith i s (withCsr n k) := by
  cases hn : csrOfNumber n with
  | some c => rw [withCsr_of_some hn]; exact h c
  | none => rw [withCsr_of_none hn]; exact .refused _

end EndsWith

/-- Every row of the table, by the shared operations its meaning is made of. -/
theorem exec_endsWith (i : Instr) (s : State) : EndsWith i s (exec i s) := by
  cases i with
  | fmaddS | fmsubS | fnmsubS | fnmaddS | faddS | fsubS | fmulS | fdivS | fsqrtS | fcvtSW | fcvtSWu | fcvtSD =>
    exact .withRounding fun _ => .finishS rfl
  | fmaddD | fmsubD | fnmsubD | fnmaddD | faddD | fsubD | fmulD | fdivD | fsqrtD | fcvtDS =>
    exact .withRounding fun _ => .finishD rfl
  | fcvtWS | fcvtWuS | fcvtWD | fcvtWuD => exact .withRounding fun _ => .finishX rfl
  | fcvtDW | fcvtDWu => exact .withRounding fun _ => .writeD rfl
  | fminS | fmaxS => exact .finishS rfl
  | fminD | fmaxD => exact .finishD rfl
  | feqS | fltS | fleS | feqD | fltD | fleD => exact .finishX rfl
  | fsgnjS | fsgnjnS | fsgnjxS | fmvWX => exact .writeS rfl
  | fsgnjD | fsgnjnD | fsgnjxD => exact .writeD rfl
  | fclassS | fclassD | fmvXW | lui | addi | add | sub | slli => exact .writeX rfl
  | flw => exact .withLoad (.writeS rfl)
  | fld => exact .withLoad (.writeD rfl)
  | lw => exact .withLoad (.writeX rfl)
  | fsw | sw => exact .withStore (.storeWord rfl)
  | fsd => exact .withStore (.storeDouble rfl)
  | beq | bne | blt => exact .branchIf
  | jal | jalr => exact .transfer (.linked rfl)
  | csrrw | csrrs | csrrc | csrrwi | csrrsi | csrrci => exact .withCsr fun _ => .csr rfl rfl
  | ecall | ebreak => exact .raised _ _

/-! ### What an instruction that answers a next state has done -/

/-- The effect of instruction `i` between two states, in the terms of Safety.lean: a trap, or a completion whose
destination or store slot `i` names. -/
inductive HasEffect (i : Instr) (s t : State) : Prop where
  | trap {c : Cause} {tval : Option Word} (h : s.Traps t c tval)
  | doneX {rd : XReg} {v : Word} {fl : FlagSet} (hd : i.destX? = some rd) (h : s.DoneX t rd v fl)
  | doneS {rd : FReg} {v : Word} {fl : FlagSet} (hd : i.destF? = some rd) (h : s.DoneS t rd v fl)
  | doneD {rd : FReg} {v : DWord} {fl : FlagSet} (hd : i.destF? = some rd) (h : s.DoneD t rd v fl)
  | store {b : XReg} {off : BitVec 12} {n w : Nat} {v : BitVec w} (hst : i.store? = some ⟨b, off, n⟩)
      (h : s.DoneStore t (s.effectiveAddress b off) n v)
  | jump {target : Word} (h : s.DoneJump t target none)
  | link {rd : XReg} {v target : Word} (hd : i.destX? = some rd) (h : s.DoneJump t target (some (rd, v)))
  | csr {rd : XReg} {c : Csr} {new : Option Word} (hc : i.isCsr = true) (hd : i.destX? = some rd)
      (h : s.DoneCsr t rd c new)

theorem State.doneJump_setPc (s : State) (target : Word) : s.DoneJump (s.setPc target) target none :=
  ⟨fun _ => rfl, fun _ => rfl, rfl, fun _ => rfl, rfl, rfl, rfl⟩

theorem State.doneJump_link (s : State) (rd : XReg) (v target : Word) :
    s.DoneJump ((s.writeX rd v).setPc target) target (some (rd, v)) where
  x r := s.readX_writeX rd r v
  f r := s.readF_writeX rd v r
  fcsr := s.writeX_fcsr rd v
  mem a := by simp
  pc := rfl
  on := ⟨s.writeX_launch rd v, s.writeX_trap rd v⟩

/-- A next state that an operation is known to answer is the one it answers. -/
theorem of_exists_next {r : Result} {t : State} {P : State → Prop} (hr : r = .next t)
    (h : ∃ u, r = .next u ∧ P u) : P t := by
  obtain ⟨u, hu, hP⟩ := h
  cases hr.symm.trans hu
  exact hP

theorem EndsWith.hasEffect {i : Instr} {s t : State} {r : Result} (h : EndsWith i s r) (hr : r = .next t) :
    HasEffect i s t := by
  cases h with
  | raised c tval => exact .trap (of_exists_next hr (raise_traps s c tval))
  | refused => cases hr
  | finishX hd => exact .doneX hd (of_exists_next hr (finishX_done ..))
  | finishS hd => exact .doneS hd (of_exists_next hr (finishS_done ..))
  | finishD hd => exact .doneD hd (of_exists_next hr (finishD_done ..))
  | writeX hd => exact .doneX hd (of_exists_next hr (writeXNext_done ..))
  | writeS hd => exact .doneS hd (of_exists_next hr (writeSNext_done ..))
  | writeD hd => exact .doneD hd (of_exists_next hr (writeDNext_done ..))
  | storeWord hst => exact .store hst (of_exists_next hr (storeNext_word_done ..))
  | storeDouble hst => exact .store hst (of_exists_next hr (storeNext_double_done ..))
  | fellThrough => cases hr; exact .jump (s.doneJump_setPc (s.pc + 4))
  | jumped => cases hr; exact .jump (s.doneJump_setPc _)
  | linked hd => cases hr; exact .link hd (s.doneJump_link ..)
  | csr hc hd => exact .csr hc hd (of_exists_next hr (csrNext_done ..))

theorem exec_hasEffect {i : Instr} {s t : State} (h : exec i s = .next t) : HasEffect i s t :=
  (exec_endsWith i s).hasEffect h

end Sys2Proof.Machine
end

section
/-! What every instruction and every step keeps (10_state.md R22 to R31; 20_memory.md R37). -/

namespace Sys2Proof.Machine

/-! ### Flags (10_state.md R28, R29, R31) -/

/-- No instruction but a CSR instruction does more to `fcsr` than accrue. -/
theorem HasEffect.accrued {i : Instr} {s t : State} (h : HasEffect i s t) (hi : i.isCsr = false) :
    ∃ fl, s.accrued t fl := by
  cases h with
  | trap h => exact ⟨_, accrued_none s t h.fcsr⟩
  | doneX _ h => exact ⟨_, h.flags⟩
  | doneS _ h => exact ⟨_, h.flags⟩
  | doneD _ h => exact ⟨_, h.flags⟩
  | store _ h => exact ⟨_, accrued_none s t h.fcsr⟩
  | jump h => exact ⟨_, accrued_none s t h.fcsr⟩
  | link _ h => exact ⟨_, accrued_none s t h.fcsr⟩
  | csr hc => rw [hi] at hc; contradiction

theorem FlagSet.and_or_self (a fl : FlagSet) : a &&& (a ||| fl) = a := by
  ext k
  rw [BitVec.getElem_and, BitVec.getElem_or]
  exact inf_sup_self

/-- `fcsr[31:5]` is the reserved bits above `frm` (10_state.md R26). -/
theorem State.extract_fcsr_above_flags (s : State) : s.fcsr.extractLsb' 5 27 = s.fcsr.extractLsb' 8 24 ++ s.frm :=
  (BitVec.extractLsb'_append_extractLsb'_eq_extractLsb' (start₁ := 5) (len₁ := 3) (len₂ := 24) rfl).symm

/-- Settles O15: what is accrued is joined to the old flags, and the fields above them stay. -/
theorem flagsOnlyAccumulate : Obligations.FlagsOnlyAccumulate := by
  intro i s t hi h
  obtain ⟨fl, hflags, hfrm, hupper⟩ := (exec_hasEffect h).accrued hi
  exact ⟨by rw [hflags, FlagSet.and_or_self],
    by rw [s.extract_fcsr_above_flags, t.extract_fcsr_above_flags, hfrm, hupper]⟩

/-! ### The frame (10_state.md R22; 20_memory.md R37) -/

theorem State.onlyX.other {s t : State} {rd r : XReg} {v : Word} (h : s.onlyX t rd v) (hr : rd ≠ r) :
    t.readX r = s.readX r := (h r).trans (if_neg fun hc => hr hc.1.symm)

theorem State.onlyF.other {s t : State} {rd r : FReg} {v : DWord} (h : s.onlyF t rd v) (hr : rd ≠ r) :
    t.readF r = s.readF r := (h r).trans (if_neg hr.symm)

theorem State.onlySingle.other {s t : State} {rd r : FReg} {v : Word} (h : s.onlySingle t rd v) (hr : rd ≠ r) :
    t.readF r = s.readF r := h.2.2 r hr.symm

namespace HasEffect

variable {i : Instr} {s t : State}

theorem readX_other (h : HasEffect i s t) {r : XReg} (hr : i.destX? ≠ some r) : t.readX r = s.readX r := by
  have ne {rd : XReg} (hd : i.destX? = some rd) : rd ≠ r := fun e => hr (hd.trans (congrArg some e))
  cases h with
  | trap h => exact h.x r
  | doneX hd h => exact h.x.other (ne hd)
  | doneS _ h => exact h.x r
  | doneD _ h => exact h.x r
  | store _ h => exact h.x r
  | jump h => exact h.x r
  | link hd h => exact State.onlyX.other h.x (ne hd)
  | csr _ hd h => exact h.x.other (ne hd)

theorem readF_other (h : HasEffect i s t) {r : FReg} (hr : i.destF? ≠ some r) : t.readF r = s.readF r := by
  have ne {rd : FReg} (hd : i.destF? = some rd) : rd ≠ r := fun e => hr (hd.trans (congrArg some e))
  cases h with
  | trap h => exact h.f r
  | doneX _ h => exact h.f r
  | doneS hd h => exact h.f.other (ne hd)
  | doneD hd h => exact h.f.other (ne hd)
  | store _ h => exact h.f r
  | jump h => exact h.f r
  | link _ h => exact h.f r
  | csr _ _ h => exact h.f r

/-- Memory is as it was, or the bytes of the row's store alone have changed. -/
theorem mem_cases (h : HasEffect i s t) : s.sameMem t ∨
    ∃ b off n, i.store? = some ⟨b, off, n⟩ ∧
      ∀ a, a < (s.effectiveAddress b off).toNat ∨ (s.effectiveAddress b off).toNat + n ≤ a →
        Memory.read t.mem a = Memory.read s.mem a := by
  cases h with
  | trap h => exact .inl h.mem
  | doneX _ h => exact .inl h.mem
  | doneS _ h => exact .inl h.mem
  | doneD _ h => exact .inl h.mem
  | store hst h => exact .inr ⟨_, _, _, hst, h.kept⟩
  | jump h => exact .inl h.mem
  | link _ h => exact .inl h.mem
  | csr _ _ h => exact .inl h.mem

/-- The launch stays, and a trap record is the old one or one made at this `pc`. -/
theorem launch_and_trap (h : HasEffect i s t) :
    t.launch = s.launch ∧ (t.trap = s.trap ∨ ∃ c v, t.trap = some ⟨c, v, s.pc⟩) := by
  have goesOn (on : s.goesOn t) : t.launch = s.launch ∧ (t.trap = s.trap ∨ ∃ c v, t.trap = some ⟨c, v, s.pc⟩) :=
    ⟨on.1, .inl on.2⟩
  cases h with
  | trap h => exact ⟨h.launch, .inr ⟨_, _, h.record⟩⟩
  | doneX _ h => exact goesOn h.on
  | doneS _ h => exact goesOn h.on
  | doneD _ h => exact goesOn h.on
  | store _ h => exact goesOn h.on
  | jump h => exact goesOn h.on
  | link _ h => exact goesOn h.on
  | csr _ _ h => exact goesOn h.on

end HasEffect

/-- Settles O16: each clause is read off the effect of the instruction. -/
theorem frameOfEveryInstruction : Obligations.FrameOfEveryInstruction := by
  intro i s t h
  have eff := exec_hasEffect h
  refine ⟨fun _ => eff.readX_other, fun _ => eff.readF_other, fun hnone => ?_, fun b off n hst a ha => ?_,
    eff.launch_and_trap⟩
  · rcases eff.mem_cases with hsame | ⟨b, off, n, hst, -⟩
    · exact hsame
    · rw [hnone] at hst; contradiction
  · rcases eff.mem_cases with hsame | ⟨b', off', n', hst', hkept⟩
    · exact hsame a
    · cases hst.symm.trans hst'
      exact hkept a ha

/-! ### The invariant: each update of the state keeps it -/

namespace State.Inv

variable {s : State}

theorem setPc (h : s.Inv) {v : Word} (hv : v.toNat % 4 = 0) : (s.setPc v).Inv := { h with pc := hv }

theorem advance (h : s.Inv) : s.advance.Inv := by
  have hpc := h.pc
  exact h.setPc (by bv_omega)

theorem setMem (h : s.Inv) {m : Memory} (hm : Memory.wf m = true) : (s.setMem m).Inv := { h with mem := hm }

theorem setFcsr (h : s.Inv) {v : Word} (hv : v.extractLsb' 8 24 = s.fcsr.extractLsb' 8 24) : (s.setFcsr v).Inv :=
  { h with fcsr := hv.trans h.fcsr }

theorem accrue (h : s.Inv) (fl : FlagSet) : (s.accrue fl).Inv := h.setFcsr (s.upper_accrue fl)

theorem writeCsr (h : s.Inv) (c : Csr) (v : Word) : (s.writeCsr c v).Inv := by
  rw [s.writeCsr_eq_setFcsr]
  exact h.setFcsr (s.upper_writeCsr c v)

theorem writeF (h : s.Inv) (r : FReg) (v : DWord) : (s.writeF r v).Inv := { h with }

theorem writeS (h : s.Inv) (r : FReg) (v : Word) : (s.writeS r v).Inv := h.writeF r _

theorem countDraw (h : s.Inv) : s.countDraw.Inv := { h with }

theorem takeTrap (h : s.Inv) (c : Cause) (tval : Option Word) : (s.takeTrap c tval).Inv := { h with }

/-- A write to `x0` is discarded, and a write to another register is not one to slot 0 (10_state.md R23). -/
theorem writeX (h : s.Inv) (r : XReg) (v : Word) : (s.writeX r v).Inv := by
  by_cases hr : r = 0
  · subst hr; exact h
  · have hslot : r.toNat ≠ 0 := fun e => hr (BitVec.eq_of_toNat_eq e)
    rw [State.writeX, if_neg hr]
    exact { h with zero := (Vector.getElem_set_ne r.isLt _ hslot).trans h.zero }

end State.Inv

/-- The last byte of an access that is allowed is an address of the 32-bit space (20_memory.md R44). -/
theorem State.accessAllowed.lt {s : State} {ea : Word} {n k : Nat} (h : s.accessAllowed ea n) (hk : k < n) :
    ea.toNat + k < 2 ^ 32 := Launch.inData_lt (h.2 k hk)

theorem csrNext_keeps_inv {s t : State} {rd : XReg} {c : Csr} {new : Option Word} (hs : s.Inv)
    (h : csrNext s rd c new = .next t) : t.Inv := by
  cases new with
  | none => cases h; exact (hs.writeX ..).advance
  | some v => cases h; exact ((hs.writeCsr ..).writeX ..).advance

theorem EndsWith.keeps_inv {i : Instr} {s t : State} {r : Result} (h : EndsWith i s r) (hs : s.Inv)
    (hr : r = .next t) : t.Inv := by
  cases h with
  | refused => cases hr
  | csr => exact csrNext_keeps_inv hs hr
  | raised => cases hr; exact hs.takeTrap ..
  | finishX => cases hr; exact ((hs.writeX ..).accrue _).advance
  | finishS => cases hr; exact ((hs.writeS ..).accrue _).countDraw.advance
  | finishD => cases hr; exact ((hs.writeF ..).accrue _).countDraw.advance
  | writeX => cases hr; exact (hs.writeX ..).advance
  | writeS => cases hr; exact (hs.writeS ..).countDraw.advance
  | writeD => cases hr; exact (hs.writeF ..).advance
  | storeWord _ ha => cases hr; exact (hs.setMem (Memory.wf_writeWord _ _ hs.mem (ha.lt (by decide)))).advance
  | storeDouble _ ha => cases hr; exact (hs.setMem (Memory.wf_writeDouble _ _ hs.mem (ha.lt (by decide)))).advance
  | fellThrough => cases hr; exact hs.advance
  | jumped ht => cases hr; exact hs.setPc ht
  | linked _ ht => cases hr; exact (hs.writeX ..).setPc ht

theorem raise_keeps_inv {s t : State} {c : Cause} {tval : Option Word} (hs : s.Inv) (h : raise s c tval = .next t) :
    t.Inv := by
  cases h
  exact hs.takeTrap c tval

/-- Settles O11: a step that answers a next state is a trap or an instruction, and each keeps the invariant. -/
theorem everyStepKeepsTheInvariant : Obligations.EveryStepKeepsTheInvariant := by
  intro s t hs h
  rcases step_cases s with hf | hf | ⟨-, c, -, hr⟩ | ⟨-, w, -, ⟨i, -, he⟩ | ⟨v, -, hr⟩ | ⟨v, hr⟩⟩
  · cases hf.symm.trans h
  · cases hf.symm.trans h
  · exact raise_keeps_inv hs (hr.symm.trans h)
  · exact (exec_endsWith i s).keeps_inv hs (he.symm.trans h)
  · exact raise_keeps_inv hs (hr.symm.trans h)
  · cases hr.symm.trans h

end Sys2Proof.Machine
end

section
/-! Program text: the word fetch assembles, the word a launch places, and the launch itself, which no step changes
(20_memory.md R38, R43, R49; 70_reset_and_hazards.md R213). -/

namespace Sys2Proof

/-! ### A word and its four bytes (20_memory.md R37, R38) -/

/-- The bytes a word is made of are its bytes, the first one the least significant. -/
theorem byteOfWord_wordOfBytes (b : Nat → Byte) {k : Nat} (hk : k < 4) :
    byteOfWord (wordOfBytes (b 0) (b 1) (b 2) (b 3)) k = b k := by
  apply BitVec.eq_of_getLsbD_eq; intro j hj
  simp only [byteOfWord, wordOfBytes, BitVec.getLsbD_extractLsb', BitVec.getLsbD_append, hj, decide_true, Bool.true_and]
  rcases (by omega : k = 0 ∨ k = 1 ∨ k = 2 ∨ k = 3) with rfl | rfl | rfl | rfl
  · rw [if_pos (by omega), Nat.mul_zero, Nat.zero_add]
  · rw [if_neg (by omega), if_pos (by omega), Nat.mul_one, Nat.add_sub_cancel_left]
  · rw [if_neg (by omega), if_neg (by omega), if_pos (by omega), show 8 * 2 + j - 8 - 8 = j by omega]
  · rw [if_neg (by omega), if_neg (by omega), if_neg (by omega), show 8 * 3 + j - 8 - 8 - 8 = j by omega]

/-- A word is made of its bytes. -/
theorem wordOfBytes_byteOfWord (w : Word) :
    wordOfBytes (byteOfWord w 0) (byteOfWord w 1) (byteOfWord w 2) (byteOfWord w 3) = w := by
  have h3 : byteOfWord w 3 ++ byteOfWord w 2 = w.extractLsb' 16 16 :=
    BitVec.extractLsb'_append_extractLsb'_eq_extractLsb' rfl
  have h2 : byteOfWord w 3 ++ byteOfWord w 2 ++ byteOfWord w 1 = w.extractLsb' 8 24 := by
    rw [h3]; exact BitVec.extractLsb'_append_extractLsb'_eq_extractLsb' rfl
  rw [wordOfBytes, h2]
  exact append_extract (n := 24) (m := 8) w

/-- A word is known by its bytes. -/
theorem word_eq_of_bytes {v w : Word} (h : ∀ k, k < 4 → byteOfWord v k = byteOfWord w k) : v = w := by
  rw [← wordOfBytes_byteOfWord v, h 0 (by omega), h 1 (by omega), h 2 (by omega), h 3 (by omega),
    wordOfBytes_byteOfWord]

/-- Bit `j` of byte `k` is bit `8k+j` of the word. -/
theorem getLsbD_byteOfWord (w : Word) (k : Nat) {j : Nat} (hj : j < 8) :
    (byteOfWord w k).getLsbD j = w.getLsbD (8 * k + j) := by
  simp [byteOfWord, hj]

end Sys2Proof

namespace Sys2Proof.Machine

/-! ### Fetch (20_memory.md R38) -/

/-- One byte that is not program text leaves no word to fetch. -/
theorem textWord?_of_missing {t : List Host.Cell} {a k : Nat} (hk : k < 4) (h : textByte? t (a + k) = none) :
    textWord? t a = none := by
  unfold textWord?
  split
  next h0 h1 h2 h3 =>
    rcases (by omega : k = 0 ∨ k = 1 ∨ k = 2 ∨ k = 3) with rfl | rfl | rfl | rfl
    · cases h.symm.trans h0
    · cases h.symm.trans h1
    · cases h.symm.trans h2
    · cases h.symm.trans h3
  next => rfl

/-- A running state whose fetch fails raises, with its `pc` recorded. -/
theorem step_of_fetch_error {s : State} {c : Cause} (hr : s.running) (hf : s.fetch = .error c) :
    step s = raise s c (some s.pc) := by
  rw [step_of_running hr, fetchAndRun, hf]

/-- Settles O7: each clause is one branch of fetch, and the bytes of the fetched word are the four text bytes. -/
theorem fetchReadsFourTextBytes : Obligations.FetchReadsFourTextBytes := by
  refine fun s => ⟨State.fetch_of_misaligned, fun ha ⟨k, hk, hmissing⟩ => ?_, fun ha b hb => ?_, fun c hr hf => ?_⟩
  · exact State.fetch_of_none ha (textWord?_of_missing hk hmissing)
  · have hw : textWord? s.launch.text s.pc.toNat = some (wordOfBytes (b 0) (b 1) (b 2) (b 3)) :=
      textWord?_of_bytes (hb 0 (by omega)) (hb 1 (by omega)) (hb 2 (by omega)) (hb 3 (by omega))
    refine ⟨_, State.fetch_of_some ha hw, fun k hk j hj => ?_⟩
    rw [← getLsbD_byteOfWord _ k hj, byteOfWord_wordOfBytes b hk]
  · rw [step_of_fetch_error hr hf]
    exact raise_traps s c (some s.pc)

/-! ### Placing program text (20_memory.md R49; log 4) -/

/-- A byte placed in the text is found there, and every other byte is as before. -/
theorem textByte?_placeTextByte (t : List Host.Cell) (a : Nat) (v : Byte) (b : Nat) :
    textByte? (placeTextByte t a v) b = if b = a then some v else textByte? t b := by
  induction t with
  | nil => simp [placeTextByte, textByte?, eq_comm]
  | cons c rest ih =>
    obtain ⟨k, w⟩ := c
    rcases lt_trichotomy a k with hlt | rfl | hgt
    · simp [placeTextByte, textByte?, hlt, eq_comm (a := a)]
    · by_cases hb : b = a
      · simp [placeTextByte, textByte?, hb]
      · simp [placeTextByte, textByte?, hb, Ne.symm hb]
    · simp only [placeTextByte, if_neg (Nat.lt_asymm hgt), if_neg hgt.ne', textByte?, ih]
      by_cases hb : k = b
      · subst hb; simp [hgt.ne]
      · simp [hb]

/-- Byte `k` of a word placed at `a` is found at `a + k`. -/
theorem textByte?_placeTextWord (t : List Host.Cell) (a : Nat) (w : Word) {k : Nat} (hk : k < 4) :
    textByte? (placeTextWord t a w) (a + k) = some (byteOfWord w k) := by
  simp only [placeTextWord, textByte?_placeTextByte]
  rcases (by omega : k = 0 ∨ k = 1 ∨ k = 2 ∨ k = 3) with rfl | rfl | rfl | rfl <;> simp

/-- A word placed at `a` is the text word at `a`. -/
theorem textWord?_placeTextWord (t : List Host.Cell) (a : Nat) (w : Word) :
    textWord? (placeTextWord t a w) a = some w := by
  have hb (k : Nat) (hk : k < 4) := textByte?_placeTextWord t a w hk
  calc textWord? (placeTextWord t a w) a
    _ = some (wordOfBytes (byteOfWord w 0) (byteOfWord w 1) (byteOfWord w 2) (byteOfWord w 3)) :=
      textWord?_of_bytes (hb 0 (by omega)) (hb 1 (by omega)) (hb 2 (by omega)) (hb 3 (by omega))
    _ = some w := by rw [wordOfBytes_byteOfWord]

/-- Text below a bound stays below it when the placed byte is. -/
theorem placeTextByte_below {t : List Host.Cell} {a n : Nat} (v : Byte) (ht : ∀ c ∈ t, c.1 < n) (ha : a < n) :
    ∀ c ∈ placeTextByte t a v, c.1 < n := by
  induction t with
  | nil => simpa [placeTextByte] using ha
  | cons d rest ih =>
    obtain ⟨hd, hrest⟩ := List.forall_mem_cons.mp ht
    unfold placeTextByte
    split_ifs with hlt heq
    · exact List.forall_mem_cons.mpr ⟨ha, ht⟩
    · exact List.forall_mem_cons.mpr ⟨hd, hrest⟩
    · exact List.forall_mem_cons.mpr ⟨hd, ih hrest⟩

/-- Text below a bound stays below it when the last byte of the placed word is. -/
theorem placeTextWord_below {t : List Host.Cell} {a n : Nat} (w : Word) (ht : ∀ c ∈ t, c.1 < n) (ha : a + 3 < n) :
    ∀ c ∈ placeTextWord t a w, c.1 < n :=
  placeTextByte_below _ (placeTextByte_below _ (placeTextByte_below _ (placeTextByte_below _ ht (by omega)) (by omega))
    (by omega)) ha

theorem alignDown_mod_four (a : Word) : (alignDown a).toNat % 4 = 0 := by
  rw [alignDown, BitVec.toNat_and, Nat.and_mod_two_pow (n := 2)]
  exact Nat.and_zero _

/-! ### A state with a word placed (log 4) -/

/-- A 32-bit table word is the whole word. -/
theorem tableWord_toNat (w : Word) : tableWord 32 w.toNat = w := by
  rw [tableWord, Nat.mod_eq_of_lt w.isLt, BitVec.ofNat_toNat, BitVec.setWidth_eq]

theorem State.withFetchWord_toNat (s : State) (w : Word) : s.withFetchWord 32 w.toNat = s.loadWord w := by
  rw [State.withFetchWord, tableWord_toNat]

/-- The placed word does not stand at `halt_pc`, which moves away from it. -/
theorem Launch.haltPc_withText_ne (l : Launch) (a w : Word) : (l.withText a w).haltPc ≠ a := by
  unfold Launch.withText
  split_ifs with h
  · bv_omega
  · exact h

theorem Launch.haltPc_withText_mod_four {l : Launch} {a : Word} (w : Word) (hl : l.haltPc.toNat % 4 = 0)
    (ha : a.toNat % 4 = 0) : (l.withText a w).haltPc.toNat % 4 = 0 := by
  unfold Launch.withText
  split_ifs
  · bv_omega
  · exact hl

theorem State.running_loadWord (s : State) (w : Word) : (s.loadWord w).running :=
  ⟨rfl, (s.launch.haltPc_withText_ne (alignDown s.pc) w).symm⟩

theorem State.fetch_loadWord (s : State) (w : Word) : (s.loadWord w).fetch = .ok w :=
  State.fetch_of_some (alignDown_mod_four s.pc) (textWord?_placeTextWord _ _ w)

/-- Placing a word turns a state that meets the invariant into a launch (70_reset_and_hazards.md R213). -/
theorem State.Inv.isLaunch_loadWord {s : State} (h : s.Inv) (w : Word) : (s.loadWord w).IsLaunch where
  text := by
    have ha : (alignDown s.pc).toNat + 3 < 2 ^ 32 := by
      have hmod := alignDown_mod_four s.pc
      omega
    exact placeTextWord_below w h.text ha
  disjoint _ := Launch.textByte?_of_inData
  entry := alignDown_mod_four s.pc
  entryText k hk := Option.isSome_iff_exists.mpr ⟨_, textByte?_placeTextWord _ _ w hk⟩
  halt := Launch.haltPc_withText_mod_four w h.halt (alignDown_mod_four s.pc)
  zero := h.zero
  fcsr := h.fcsr
  mem := h.mem
  fresh := rfl

/-- Settles O9: placing a word is an update of `pc`, the trap record and the launch alone. -/
theorem placedWordIsFetchedNext : Obligations.PlacedWordIsFetchedNext := by
  intro s w
  rw [s.withFetchWord_toNat]
  exact ⟨s.running_loadWord w, s.fetch_loadWord w, fun _ => rfl, fun _ => rfl, rfl, fun _ => rfl,
    fun h => h.isLaunch_loadWord w⟩

/-! ### What a step that answers a next state has done -/

/-- A step that answers a next state is a running state's trap or instruction. -/
theorem step_next_cases {s t : State} (h : step s = .next t) :
    s.running ∧ ((∃ c v, s.Traps t c v) ∨ ∃ i, exec i s = .next t) := by
  rcases step_cases s with hf | hf | ⟨hrun, c, -, hr⟩ | ⟨hrun, w, -, ⟨i, -, he⟩ | ⟨v, -, hr⟩ | ⟨v, hr⟩⟩
  · cases hf.symm.trans h
  · cases hf.symm.trans h
  · exact ⟨hrun, .inl ⟨_, _, of_exists_next (hr.symm.trans h) (raise_traps s c _)⟩⟩
  · exact ⟨hrun, .inr ⟨i, he.symm.trans h⟩⟩
  · exact ⟨hrun, .inl ⟨_, _, of_exists_next (hr.symm.trans h) (raise_traps s _ _)⟩⟩
  · cases hr.symm.trans h

/-- Settles O13: neither a trap nor the effect of an instruction touches the launch. -/
theorem launchNeverChanges : Obligations.LaunchNeverChanges := by
  intro s t h
  obtain ⟨-, ⟨c, v, htrap⟩ | ⟨i, hexec⟩⟩ := step_next_cases h
  · exact htrap.launch
  · exact (exec_hasEffect hexec).launch_and_trap.1

end Sys2Proof.Machine
end

section
/-! Data memory byte by byte, and loads after stores of the other width (20_memory.md R37, R39, R41, R44). -/

namespace Sys2Proof.Machine

/-! ### Reading words and doublewords (20_memory.md R37) -/

/-- Byte `k` of a word that is read. -/
theorem Memory.byteOfWord_readWord (m : Memory) (a : Nat) {k : Nat} (hk : k < 4) :
    byteOfWord (Memory.readWord m a) k = Memory.read m (a + k) :=
  byteOfWord_wordOfBytes (fun k => Memory.read m (a + k)) hk

/-- A word is read where its bytes are. -/
theorem Memory.readWord_of_bytes {m : Memory} {a : Nat} {w : Word}
    (h : ∀ k, k < 4 → Memory.read m (a + k) = byteOfWord w k) : Memory.readWord m a = w :=
  word_eq_of_bytes fun k hk => (Memory.byteOfWord_readWord m a hk).trans (h k hk)

/-- Byte `k` of a doubleword that is read: one of the lower word's, or one of the upper word's. -/
theorem Memory.extract_readDouble_byte (m : Memory) (a : Nat) {k : Nat} (hk : k < 8) :
    (Memory.readDouble m a).extractLsb' (8 * k) 8 = Memory.read m (a + k) := by
  by_cases hlow : k < 4
  · rw [← byteOfWord_lowHalf _ k hlow, Memory.readDouble, lowHalf_append, Memory.byteOfWord_readWord m a hlow]
  · obtain ⟨j, rfl⟩ : ∃ j, k = j + 4 := ⟨k - 4, by omega⟩
    rw [← byteOfWord_highHalf _ j (by omega), Memory.readDouble, highHalf_append,
      Memory.byteOfWord_readWord m (a + 4) (by omega), Nat.add_assoc, Nat.add_comm 4 j]

/-- Settles O40: the reads byte by byte, and what each store leaves in its bytes and outside them. -/
theorem memoryIsLittleEndian : Obligations.MemoryIsLittleEndian := fun m a v d =>
  ⟨fun _ hk => Memory.byteOfWord_readWord m a hk, fun _ hk => Memory.extract_readDouble_byte m a hk,
    Memory.read_writeWord_byte m a v, Memory.read_writeDouble_byte m a d, Memory.read_writeWord_other m a v,
    Memory.read_writeDouble_other m a d⟩

/-! ### Loads and stores that are allowed complete (41_load_store.md R105 to R109; 47_base_subset.md R174, R175) -/

section Complete

variable {s : State} {b : XReg} {off : BitVec 12} {ea : Word}

theorem exec_flw_done (hea : s.effectiveAddress b off = ea) (h : s.accessAllowed ea 4) (rd : FReg) :
    ∃ t, exec (.flw rd b off) s = .next t ∧ s.DoneS t rd (Memory.readWord s.mem ea.toNat) noFlags := by
  subst hea
  have he : exec (.flw rd b off) s = writeSNext s rd _ := withLoad_of_allowed h _
  rw [he]
  exact writeSNext_done s rd _

theorem exec_fld_done (hea : s.effectiveAddress b off = ea) (h : s.accessAllowed ea 8) (rd : FReg) :
    ∃ t, exec (.fld rd b off) s = .next t ∧ s.DoneD t rd (Memory.readDouble s.mem ea.toNat) noFlags := by
  subst hea
  have he : exec (.fld rd b off) s = writeDNext s rd _ := withLoad_of_allowed h _
  rw [he]
  exact writeDNext_done s rd _

theorem exec_lw_done (hea : s.effectiveAddress b off = ea) (h : s.accessAllowed ea 4) (rd : XReg) :
    ∃ t, exec (.lw rd b off) s = .next t ∧ s.DoneX t rd (Memory.readWord s.mem ea.toNat) noFlags := by
  subst hea
  have he : exec (.lw rd b off) s = writeXNext s rd _ := withLoad_of_allowed h _
  rw [he]
  exact writeXNext_done s rd _

theorem exec_fsw_done (hea : s.effectiveAddress b off = ea) (h : s.accessAllowed ea 4) (g : FReg) :
    ∃ t, exec (.fsw g b off) s = .next t ∧ s.DoneStore t ea 4 (lowHalf (s.readF g)) := by
  subst hea
  have he : exec (.fsw g b off) s = storeNext s _ := withStore_of_allowed h _
  rw [he]
  exact storeNext_word_done s _ _

theorem exec_sw_done (hea : s.effectiveAddress b off = ea) (h : s.accessAllowed ea 4) (g : XReg) :
    ∃ t, exec (.sw g b off) s = .next t ∧ s.DoneStore t ea 4 (s.readX g) := by
  subst hea
  have he : exec (.sw g b off) s = storeNext s _ := withStore_of_allowed h _
  rw [he]
  exact storeNext_word_done s _ _

theorem exec_fsd_done (hea : s.effectiveAddress b off = ea) (h : s.accessAllowed ea 8) (g : FReg) :
    ∃ t, exec (.fsd g b off) s = .next t ∧ s.DoneStore t ea 8 (s.readF g) := by
  subst hea
  have he : exec (.fsd g b off) s = storeNext s _ := withStore_of_allowed h _
  rw [he]
  exact storeNext_double_done s _ _

end Complete

/-! ### The two words of an aligned doubleword (20_memory.md R39) -/

/-- The upper word of an aligned doubleword starts 4 above it, without wrapping. -/
theorem toNat_add_four_of_aligned {ea : Word} (h : ea.toNat % 8 = 0) : (ea + 4).toNat = ea.toNat + 4 := by
  bv_omega

/-- Where an aligned doubleword may be accessed, so may each of its words. -/
theorem State.accessAllowed.words {s : State} {ea : Word} (h : s.accessAllowed ea 8) (ha : ea.toNat % 8 = 0) :
    s.accessAllowed ea 4 ∧ s.accessAllowed (ea + 4) 4 := by
  have hnext := toNat_add_four_of_aligned ha
  refine ⟨⟨.inl (by omega), fun k hk => h.2 k (by omega)⟩, ⟨.inl (by omega), fun k hk => ?_⟩⟩
  rw [hnext, Nat.add_assoc]
  exact h.2 (4 + k) (by omega)

/-! ### Accesses after a store -/

namespace State.DoneStore

variable {s t u : State} {a ea : Word} {n w : Nat} {v : BitVec w} {b : XReg} {off : BitVec 12}

/-- A store moves no address an instruction computes. -/
theorem effectiveAddress (h : s.DoneStore t a n v) (hea : s.effectiveAddress b off = ea) :
    t.effectiveAddress b off = ea := by
  rw [← hea, State.effectiveAddress, State.effectiveAddress, h.x b]

/-- A store closes no address to a later access. -/
theorem accessAllowed (h : s.DoneStore t a n v) {k : Nat} (hacc : s.accessAllowed ea k) : t.accessAllowed ea k := by
  unfold State.accessAllowed
  rw [h.on.1]
  exact hacc

/-- `flw` after a store reads the stored-to memory. -/
theorem flw_reads (h : s.DoneStore t a n v) (hea : s.effectiveAddress b off = ea) (hacc : s.accessAllowed ea 4)
    (rd : FReg) :
    ∃ u, exec (.flw rd b off) t = .next u ∧ u.trap = s.trap ∧
      lowHalf (u.readF rd) = Memory.readWord t.mem ea.toNat := by
  obtain ⟨u, hu, done⟩ := exec_flw_done (h.effectiveAddress hea) (h.accessAllowed hacc) rd
  exact ⟨u, hu, done.on.2.trans h.on.2, done.f.1⟩

/-- `lw` after a store reads the stored-to memory. -/
theorem lw_reads (h : s.DoneStore t a n v) (hea : s.effectiveAddress b off = ea) (hacc : s.accessAllowed ea 4)
    {rd : XReg} (hrd : rd ≠ 0) :
    ∃ u, exec (.lw rd b off) t = .next u ∧ u.trap = s.trap ∧ u.readX rd = Memory.readWord t.mem ea.toNat := by
  obtain ⟨u, hu, done⟩ := exec_lw_done (h.effectiveAddress hea) (h.accessAllowed hacc) rd
  exact ⟨u, hu, done.on.2.trans h.on.2, (done.x rd).trans (if_pos ⟨rfl, hrd⟩)⟩

theorem readWord_low {d : DWord} (h : s.DoneStore t a 8 d) : Memory.readWord t.mem a.toNat = lowHalf d :=
  Memory.readWord_of_bytes fun k hk => (h.stored k (by omega)).trans (byteOfWord_lowHalf d k hk).symm

theorem readWord_high {d : DWord} (h : s.DoneStore t a 8 d) (ha : a.toNat % 8 = 0) :
    Memory.readWord t.mem (a + 4).toNat = highHalf d := by
  rw [toNat_add_four_of_aligned ha]
  refine Memory.readWord_of_bytes fun k hk => ?_
  rw [byteOfWord_highHalf d k hk, ← h.stored (k + 4) (by omega), Nat.add_assoc, Nat.add_comm 4 k]

/-- Two words stored one above the other are read as the doubleword of both. -/
theorem readDouble {w0 w1 : Word} (h0 : s.DoneStore t a 4 w0) (h1 : t.DoneStore u (a + 4) 4 w1)
    (ha : a.toNat % 8 = 0) : Memory.readDouble u.mem a.toNat = w1 ++ w0 := by
  have hnext := toNat_add_four_of_aligned ha
  have hlow : Memory.readWord u.mem a.toNat = w0 :=
    Memory.readWord_of_bytes fun k hk => (h1.kept _ (.inl (by omega))).trans (h0.stored k hk)
  have hhigh : Memory.readWord u.mem (a.toNat + 4) = w1 := by
    rw [← hnext]
    exact Memory.readWord_of_bytes h1.stored
  rw [Memory.readDouble, hlow, hhigh]

/-- `fld` after the stores of its two words. -/
theorem fld_reads {w0 w1 : Word} (h0 : s.DoneStore t a 4 w0) (h1 : t.DoneStore u (a + 4) 4 w1) (ha : a.toNat % 8 = 0)
    (hea : s.effectiveAddress b off = a) (hacc : s.accessAllowed a 8) (rd : FReg) :
    ∃ v, exec (.fld rd b off) u = .next v ∧ v.trap = s.trap ∧ v.readF rd = w1 ++ w0 := by
  obtain ⟨v, hv, done⟩ :=
    exec_fld_done (h1.effectiveAddress (h0.effectiveAddress hea)) (h1.accessAllowed (h0.accessAllowed hacc)) rd
  refine ⟨v, hv, done.on.2.trans (h1.on.2.trans h0.on.2), ?_⟩
  rw [done.f rd, if_pos rfl, h0.readDouble h1 ha]

end State.DoneStore

/-- Settles O41: the stores by the bytes they leave, the loads by the words those bytes make. -/
theorem mixedWidthAccesses : Obligations.MixedWidthAccesses := by
  intro s r1 r2 i1 i2 ha hacc hea2
  obtain ⟨hlow, hhigh⟩ := hacc.words ha
  refine ⟨fun g rd q hq => ?_, fun g h rd => ?_, fun g h rd => ?_⟩
  · obtain ⟨t, ht, st⟩ := exec_fsd_done rfl hacc g
    rw [← st.readWord_low, ← st.readWord_high ha]
    exact ⟨t, ht, st.flw_reads rfl hlow rd, st.flw_reads hea2 hhigh rd, st.lw_reads rfl hlow hq,
      st.lw_reads hea2 hhigh hq⟩
  · obtain ⟨t, ht, st⟩ := exec_fsw_done rfl hlow g
    obtain ⟨u, hu, su⟩ := exec_fsw_done (st.effectiveAddress hea2) (st.accessAllowed hhigh) h
    obtain ⟨v, hv, htrap, hread⟩ := st.fld_reads su ha rfl hacc rd
    exact ⟨t, u, v, ht, hu, hv, htrap, by rw [hread, st.f h]⟩
  · obtain ⟨t, ht, st⟩ := exec_sw_done rfl hlow g
    obtain ⟨u, hu, su⟩ := exec_sw_done (st.effectiveAddress hea2) (st.accessAllowed hhigh) h
    obtain ⟨v, hv, htrap, hread⟩ := st.fld_reads su ha rfl hacc rd
    exact ⟨t, u, v, ht, hu, hv, htrap, by rw [hread, st.x h]⟩

end Sys2Proof.Machine
end

section
/-! Decoding and encoding invert each other, and what a step makes of a fetched word (30_encoding.md R53 to R68;
47_base_subset.md R168). -/

namespace Sys2Proof

/-! ### No two rows of the table overlap (30_encoding.md R65) -/

/-- No word matches both rows: they fix some bit that both masks cover to different values. -/
def Row.disjoint (r q : Row) : Prop := r.pattern &&& q.mask ≠ q.pattern &&& r.mask

theorem Row.hits_iff {r : Row} {w : Word} : r.hits w = true ↔ w &&& r.mask = r.pattern := beq_iff_eq

theorem Row.disjoint.not_both_hit {r q : Row} (h : r.disjoint q) {w : Word} (hr : r.hits w = true) :
    q.hits w ≠ true := by
  intro hq
  rw [Row.hits_iff] at hr hq
  apply h
  calc r.pattern &&& q.mask = w &&& r.mask &&& q.mask := by rw [hr]
    _ = w &&& q.mask &&& r.mask := by rw [BitVec.and_assoc, BitVec.and_comm r.mask, BitVec.and_assoc]
    _ = q.pattern &&& r.mask := by rw [hq]

theorem opcodeRows_pairwise_disjoint : opcodeRows.Pairwise Row.disjoint := by
  unfold Row.disjoint
  decide +kernel

/-- Of pairwise disjoint rows, the search finds the one that matches, wherever it stands. -/
theorem find?_hits_of_mem {l : List Row} (hl : l.Pairwise Row.disjoint) {r : Row} {w : Word} (hr : r ∈ l)
    (hw : r.hits w = true) : l.find? (fun q => q.hits w) = some r := by
  induction hl with
  | nil => cases hr
  | @cons q l hq _ ih =>
    rcases List.mem_cons.mp hr with rfl | hmem
    · exact List.find?_cons_of_pos (p := (Row.hits · w)) hw
    · have hmiss : ¬ q.hits w = true := fun hhit => (hq r hmem).not_both_hit hhit hw
      rw [List.find?_cons_of_neg (p := (Row.hits · w)) hmiss, ih hmem]

/-- Settles O1: the rows are pairwise disjoint, so the first row that matches is the only one. -/
theorem rowsSelectThemselves : Obligations.RowsSelectThemselves := by
  intro r hr w hw
  rw [decodeWord, find?_hits_of_mem opcodeRows_pairwise_disjoint hr hw]

/-! ### What the decoder answers -/

/-- An instruction is decoded by a row that the word matches. -/
theorem row_of_decodeWord {w : Word} {i : Instr} (h : decodeWord w = .instr i) :
    ∃ r ∈ opcodeRows, r.hits w = true ∧ r.build w = i := by
  unfold decodeWord at h
  split at h
  next r hf =>
    exact ⟨r, List.mem_of_find?_eq_some hf, List.find?_some (p := (Row.hits · w)) hf, Decoded.instr.inj h⟩
  next => split at h <;> cases h

theorem decodeWord_of_no_row {w : Word} (h : ∀ r ∈ opcodeRows, r.hits w = false) :
    decodeWord w = if opcodeField w ∈ fpOpcodes then .illegal w else .notDescribed w := by
  have hnone : opcodeRows.find? (fun r => r.hits w) = none :=
    List.find?_eq_none.mpr fun r hr => by simp [h r hr]
  rw [decodeWord, hnone]

/-- A word laid out in memory is decoded as the word, whatever bytes follow. -/
theorem decodeBytes_bytesOfWord (w : Word) (rest : List Byte) :
    decodeBytes (bytesOfWord w ++ rest) = decodeWord w :=
  congrArg decodeWord (wordOfBytes_byteOfWord w)

/-! ### Decoding an encoding -/

namespace Laws.EncodingHitsRow

/-- Every instruction's word selects a row that reads the instruction back. -/
theorem statement : ∀ i : Instr, Statement i
  | .flw .. => flw ..
  | .fsw .. => fsw ..
  | .fmaddS .. => fmaddS ..
  | .fmsubS .. => fmsubS ..
  | .fnmsubS .. => fnmsubS ..
  | .fnmaddS .. => fnmaddS ..
  | .faddS .. => faddS ..
  | .fsubS .. => fsubS ..
  | .fmulS .. => fmulS ..
  | .fdivS .. => fdivS ..
  | .fsqrtS .. => fsqrtS ..
  | .fsgnjS .. => fsgnjS ..
  | .fsgnjnS .. => fsgnjnS ..
  | .fsgnjxS .. => fsgnjxS ..
  | .fminS .. => fminS ..
  | .fmaxS .. => fmaxS ..
  | .fcvtWS .. => fcvtWS ..
  | .fcvtWuS .. => fcvtWuS ..
  | .fmvXW .. => fmvXW ..
  | .feqS .. => feqS ..
  | .fltS .. => fltS ..
  | .fleS .. => fleS ..
  | .fclassS .. => fclassS ..
  | .fcvtSW .. => fcvtSW ..
  | .fcvtSWu .. => fcvtSWu ..
  | .fmvWX .. => fmvWX ..
  | .fld .. => fld ..
  | .fsd .. => fsd ..
  | .fmaddD .. => fmaddD ..
  | .fmsubD .. => fmsubD ..
  | .fnmsubD .. => fnmsubD ..
  | .fnmaddD .. => fnmaddD ..
  | .faddD .. => faddD ..
  | .fsubD .. => fsubD ..
  | .fmulD .. => fmulD ..
  | .fdivD .. => fdivD ..
  | .fsqrtD .. => fsqrtD ..
  | .fsgnjD .. => fsgnjD ..
  | .fsgnjnD .. => fsgnjnD ..
  | .fsgnjxD .. => fsgnjxD ..
  | .fminD .. => fminD ..
  | .fmaxD .. => fmaxD ..
  | .fcvtSD .. => fcvtSD ..
  | .fcvtDS .. => fcvtDS ..
  | .feqD .. => feqD ..
  | .fltD .. => fltD ..
  | .fleD .. => fleD ..
  | .fclassD .. => fclassD ..
  | .fcvtWD .. => fcvtWD ..
  | .fcvtWuD .. => fcvtWuD ..
  | .fcvtDW .. => fcvtDW ..
  | .fcvtDWu .. => fcvtDWu ..
  | .lui .. => lui ..
  | .addi .. => addi ..
  | .add .. => add ..
  | .sub .. => sub ..
  | .slli .. => slli ..
  | .lw .. => lw ..
  | .sw .. => sw ..
  | .beq .. => beq ..
  | .bne .. => bne ..
  | .blt .. => blt ..
  | .jal .. => jal ..
  | .jalr .. => jalr ..
  | .csrrw .. => csrrw ..
  | .csrrs .. => csrrs ..
  | .csrrc .. => csrrc ..
  | .csrrwi .. => csrrwi ..
  | .csrrsi .. => csrrsi ..
  | .csrrci .. => csrrci ..
  | .ecall => ecall
  | .ebreak => ebreak

end Laws.EncodingHitsRow

theorem decodeWord_encode {i : Instr} (h : i.wf = true) : decodeWord (encode i) = .instr i := by
  obtain ⟨r, hr, hhits, hbuild⟩ := Laws.EncodingHitsRow.statement i
  rw [rowsSelectThemselves r hr _ hhits, hbuild h]

/-- Settles O2: the instruction's word selects the row that reads it back, and no other. -/
theorem decodeOfEncode : Obligations.DecodeOfEncode := fun _ h =>
  ⟨decodeWord_encode h, fun rest => (decodeBytes_bytesOfWord _ rest).trans (decodeWord_encode h)⟩

/-! ### A word is made of its fields (30_encoding.md R53 to R58; 47_base_subset.md R168) -/

/-- A bit of the word, looked up in a field that holds it. -/
theorem getLsbD_extract_sub (w : Word) {i k n : Nat} (hk : k ≤ i) (hn : i < k + n) :
    (w.extractLsb' k n).getLsbD (i - k) = w.getLsbD i := by
  rw [BitVec.getLsbD_extractLsb', decide_eq_true (by omega), Bool.true_and, Nat.add_sub_cancel' hk]

theorem encodeR_fields (w : Word) :
    encodeR (w.extractLsb' 25 7) (rs2Field w) (rs1Field w) (funct3Field w) (rdField w) (opcodeField w) = w := by
  apply BitVec.eq_of_getLsbD_eq; intro i _
  rw [getLsbD_encodeR]
  split_ifs <;> exact getLsbD_extract_sub w (by omega) (by omega)

theorem encodeR4_fields (w : Word) :
    encodeR4 (rs3Field w) (w.extractLsb' 25 2) (rs2Field w) (rs1Field w) (funct3Field w) (rdField w)
      (opcodeField w) = w := by
  apply BitVec.eq_of_getLsbD_eq; intro i _
  rw [getLsbD_encodeR4]
  split_ifs <;> exact getLsbD_extract_sub w (by omega) (by omega)

theorem encodeI_fields (w : Word) :
    encodeI (immI w) (rs1Field w) (funct3Field w) (rdField w) (opcodeField w) = w := by
  apply BitVec.eq_of_getLsbD_eq; intro i _
  rw [getLsbD_encodeI]
  split_ifs <;> exact getLsbD_extract_sub w (by omega) (by omega)

theorem encodeU_fields (w : Word) :
    encodeU (immU w) (rdField w) (opcodeField w) = w := by
  apply BitVec.eq_of_getLsbD_eq; intro i _
  rw [getLsbD_encodeU]
  split_ifs <;> exact getLsbD_extract_sub w (by omega) (by omega)

theorem encodeS_fields (w : Word) :
    encodeS (immS w) (rs2Field w) (rs1Field w) (funct3Field w) (opcodeField w) = w := by
  have hhigh : (immS w).extractLsb' 5 7 = w.extractLsb' 25 7 := extract_append_high ..
  have hlow : (immS w).extractLsb' 0 5 = rdField w := extract_append_low ..
  rw [encodeS_eq, hhigh, hlow, encodeR_fields]

/-- The bits of a B offset, by where the word holds them (47_base_subset.md R168). -/
theorem getLsbD_immB (w : Word) (i : Nat) :
    (immB w).getLsbD i =
      if i < 1 then false else if i < 5 then w.getLsbD (i + 7) else if i < 11 then w.getLsbD (i + 20)
      else if i < 12 then w.getLsbD 7 else if i < 13 then w.getLsbD 31 else false := by
  show (w.extractLsb' 31 1 ++ w.extractLsb' 7 1 ++ w.extractLsb' 25 6 ++ w.extractLsb' 8 4 ++ (0 : BitVec 1) :
    BitVec (1 + 1 + 6 + 4 + 1)).getLsbD i = _
  simp only [BitVec.getLsbD_append, BitVec.getLsbD_extractLsb']
  split_ifs <;> grind

/-- The bits of a J offset, by where the word holds them (47_base_subset.md R168). -/
theorem getLsbD_immJ (w : Word) (i : Nat) :
    (immJ w).getLsbD i =
      if i < 1 then false else if i < 11 then w.getLsbD (i + 20) else if i < 12 then w.getLsbD 20
      else if i < 20 then w.getLsbD i else if i < 21 then w.getLsbD 31 else false := by
  show (w.extractLsb' 31 1 ++ w.extractLsb' 12 8 ++ w.extractLsb' 20 1 ++ w.extractLsb' 21 10 ++ (0 : BitVec 1) :
    BitVec (1 + 8 + 1 + 10 + 1)).getLsbD i = _
  simp only [BitVec.getLsbD_append, BitVec.getLsbD_extractLsb']
  split_ifs <;> grind

theorem evenOffset_immB (w : Word) : evenOffset (immB w) = true := congrArg Bool.not (getLsbD_immB w 0)

theorem evenOffset_immJ (w : Word) : evenOffset (immJ w) = true := congrArg Bool.not (getLsbD_immJ w 0)

theorem encodeB_fields (w : Word) :
    encodeB (immB w) (rs2Field w) (rs1Field w) (funct3Field w) (opcodeField w) = w := by
  have hhigh : (immB w).extractLsb' 12 1 ++ (immB w).extractLsb' 5 6 = w.extractLsb' 25 7 := by
    apply BitVec.eq_of_getLsbD_eq; intro i hi
    show ((immB w).extractLsb' 12 1 ++ (immB w).extractLsb' 5 6 : BitVec (1 + 6)).getLsbD i = _
    simp only [BitVec.getLsbD_append, BitVec.getLsbD_extractLsb', getLsbD_immB]
    interval_cases i <;> simp
  have hlow : (immB w).extractLsb' 1 4 ++ (immB w).extractLsb' 11 1 = rdField w := by
    apply BitVec.eq_of_getLsbD_eq; intro i hi
    show ((immB w).extractLsb' 1 4 ++ (immB w).extractLsb' 11 1 : BitVec (4 + 1)).getLsbD i =
      (w.extractLsb' 7 5).getLsbD i
    simp only [BitVec.getLsbD_append, BitVec.getLsbD_extractLsb', getLsbD_immB]
    interval_cases i <;> simp
  rw [encodeB_eq, hhigh, hlow, encodeR_fields]

theorem encodeJ_fields (w : Word) : encodeJ (immJ w) (rdField w) (opcodeField w) = w := by
  have himm : (immJ w).extractLsb' 20 1 ++ (immJ w).extractLsb' 1 10 ++ (immJ w).extractLsb' 11 1 ++
      (immJ w).extractLsb' 12 8 = immU w := by
    apply BitVec.eq_of_getLsbD_eq; intro i hi
    show ((immJ w).extractLsb' 20 1 ++ (immJ w).extractLsb' 1 10 ++ (immJ w).extractLsb' 11 1 ++
      (immJ w).extractLsb' 12 8 : BitVec (1 + 10 + 1 + 8)).getLsbD i = (w.extractLsb' 12 20).getLsbD i
    simp only [BitVec.getLsbD_append, BitVec.getLsbD_extractLsb', getLsbD_immJ]
    interval_cases i <;> simp
  rw [encodeJ_eq, himm, encodeU_fields]

/-- No bit of an `rm` field is dropped (30_encoding.md R67). -/
@[simp] theorem RmField.bits_ofBits : ∀ b : BitVec 3, (RmField.ofBits b).bits = b := by decide

theorem bits_rmField (w : Word) : (rmField w).bits = funct3Field w := RmField.bits_ofBits _

/-! ### A word that matches a row is the encoding of its fields with the row's own

In each lemma the mask says which fields the row fixes, and the conclusion takes those from the pattern. -/

/-- A field the mask covers is the pattern's. -/
theorem extract_of_hits {w m p : Word} {k n : Nat} (h : w &&& m = p) (hm : m.extractLsb' k n = BitVec.allOnes n) :
    p.extractLsb' k n = w.extractLsb' k n := by
  rw [← h, BitVec.extractLsb'_and, hm, BitVec.and_allOnes]

section OfHits

variable {w m p : Word}

theorem opcodeField_of_hits (h : w &&& m = p) (hm : opcodeField m = 0x7f) : opcodeField p = opcodeField w :=
  extract_of_hits h hm

theorem funct3Field_of_hits (h : w &&& m = p) (hm : funct3Field m = 0x7) : funct3Field p = funct3Field w :=
  extract_of_hits h hm

theorem rs2Field_of_hits (h : w &&& m = p) (hm : rs2Field m = 0x1f) : rs2Field p = rs2Field w :=
  extract_of_hits h hm

/-- Rows without a free field: `ecall` and `ebreak`. -/
theorem word_of_hits (h : w &&& 0xffffffff = p) : p = w := h.symm.trans BitVec.and_allOnes

/-- Rows of format R without a rounding mode, such as `fmin.s` and `add`. -/
theorem encodeR_of_hits (h : w &&& 0xfe00707f = p) :
    encodeR (p.extractLsb' 25 7) (rs2Field w) (rs1Field w) (funct3Field p) (rdField w) (opcodeField p) = w := by
  rw [funct3Field_of_hits h rfl, opcodeField_of_hits h rfl, extract_of_hits h rfl, encodeR_fields]

/-- Rows of format R with nothing free but `rs1` and `rd`, such as `fclass.s`. -/
theorem encodeR_fixedRs2_of_hits (h : w &&& 0xfff0707f = p) :
    encodeR (p.extractLsb' 25 7) (rs2Field p) (rs1Field w) (funct3Field p) (rdField w) (opcodeField p) = w := by
  rw [rs2Field_of_hits h rfl, funct3Field_of_hits h rfl, opcodeField_of_hits h rfl, extract_of_hits h rfl,
    encodeR_fields]

/-- Rows of format R that round two operands, such as `fadd.s`. -/
theorem encodeR_rm_of_hits (h : w &&& 0xfe00007f = p) :
    encodeR (p.extractLsb' 25 7) (rs2Field w) (rs1Field w) (rmField w).bits (rdField w) (opcodeField p) = w := by
  rw [bits_rmField, opcodeField_of_hits h rfl, extract_of_hits h rfl, encodeR_fields]

/-- Rows of format R that round one operand, such as `fsqrt.s`. -/
theorem encodeR_fixedRs2_rm_of_hits (h : w &&& 0xfff0007f = p) :
    encodeR (p.extractLsb' 25 7) (rs2Field p) (rs1Field w) (rmField w).bits (rdField w) (opcodeField p) = w := by
  rw [bits_rmField, rs2Field_of_hits h rfl, opcodeField_of_hits h rfl, extract_of_hits h rfl, encodeR_fields]

theorem encodeR4_of_hits (h : w &&& 0x0600007f = p) :
    encodeR4 (rs3Field w) (p.extractLsb' 25 2) (rs2Field w) (rs1Field w) (rmField w).bits (rdField w)
      (opcodeField p) = w := by
  rw [bits_rmField, opcodeField_of_hits h rfl, extract_of_hits h rfl, encodeR4_fields]

theorem encodeI_of_hits (h : w &&& 0x0000707f = p) :
    encodeI (immI w) (rs1Field w) (funct3Field p) (rdField w) (opcodeField p) = w := by
  rw [funct3Field_of_hits h rfl, opcodeField_of_hits h rfl, encodeI_fields]

theorem encodeS_of_hits (h : w &&& 0x0000707f = p) :
    encodeS (immS w) (rs2Field w) (rs1Field w) (funct3Field p) (opcodeField p) = w := by
  rw [funct3Field_of_hits h rfl, opcodeField_of_hits h rfl, encodeS_fields]

theorem encodeB_of_hits (h : w &&& 0x0000707f = p) :
    encodeB (immB w) (rs2Field w) (rs1Field w) (funct3Field p) (opcodeField p) = w := by
  rw [funct3Field_of_hits h rfl, opcodeField_of_hits h rfl, encodeB_fields]

theorem encodeU_of_hits (h : w &&& 0x0000007f = p) :
    encodeU (immU w) (rdField w) (opcodeField p) = w := by
  rw [opcodeField_of_hits h rfl, encodeU_fields]

theorem encodeJ_of_hits (h : w &&& 0x0000007f = p) :
    encodeJ (immJ w) (rdField w) (opcodeField p) = w := by
  rw [opcodeField_of_hits h rfl, encodeJ_fields]

end OfHits

/-! ### Encoding a decoded word: one entry for each row, in the table's order, by the fields its mask leaves free

Each lemma is elaborated by itself, `(… :)`, so that the row's pattern is known when its fields are compared. -/

/-- Of every word that matches the row, the row reads a well-formed instruction whose encoding is the word. -/
def Row.inverts (r : Row) : Prop := ∀ w, w &&& r.mask = r.pattern → (r.build w).wf = true ∧ encode (r.build w) = w

theorem opcodeRowsF_invert : ∀ r ∈ opcodeRowsF, r.inverts := by
  simp only [opcodeRowsF, List.forall_mem_cons]
  exact ⟨
    -- flw
    fun _ h => ⟨rfl, (encodeI_of_hits h :)⟩,
    -- fsw
    fun _ h => ⟨rfl, (encodeS_of_hits h :)⟩,
    -- fmadd.s, fmsub.s, fnmsub.s, fnmadd.s
    fun _ h => ⟨rfl, (encodeR4_of_hits h :)⟩,
    fun _ h => ⟨rfl, (encodeR4_of_hits h :)⟩,
    fun _ h => ⟨rfl, (encodeR4_of_hits h :)⟩,
    fun _ h => ⟨rfl, (encodeR4_of_hits h :)⟩,
    -- fadd.s, fsub.s, fmul.s, fdiv.s
    fun _ h => ⟨rfl, (encodeR_rm_of_hits h :)⟩,
    fun _ h => ⟨rfl, (encodeR_rm_of_hits h :)⟩,
    fun _ h => ⟨rfl, (encodeR_rm_of_hits h :)⟩,
    fun _ h => ⟨rfl, (encodeR_rm_of_hits h :)⟩,
    -- fsqrt.s
    fun _ h => ⟨rfl, (encodeR_fixedRs2_rm_of_hits h :)⟩,
    -- fsgnj.s, fsgnjn.s, fsgnjx.s, fmin.s, fmax.s
    fun _ h => ⟨rfl, (encodeR_of_hits h :)⟩,
    fun _ h => ⟨rfl, (encodeR_of_hits h :)⟩,
    fun _ h => ⟨rfl, (encodeR_of_hits h :)⟩,
    fun _ h => ⟨rfl, (encodeR_of_hits h :)⟩,
    fun _ h => ⟨rfl, (encodeR_of_hits h :)⟩,
    -- fcvt.w.s, fcvt.wu.s
    fun _ h => ⟨rfl, (encodeR_fixedRs2_rm_of_hits h :)⟩,
    fun _ h => ⟨rfl, (encodeR_fixedRs2_rm_of_hits h :)⟩,
    -- fmv.x.w
    fun _ h => ⟨rfl, (encodeR_fixedRs2_of_hits h :)⟩,
    -- feq.s, flt.s, fle.s
    fun _ h => ⟨rfl, (encodeR_of_hits h :)⟩,
    fun _ h => ⟨rfl, (encodeR_of_hits h :)⟩,
    fun _ h => ⟨rfl, (encodeR_of_hits h :)⟩,
    -- fclass.s
    fun _ h => ⟨rfl, (encodeR_fixedRs2_of_hits h :)⟩,
    -- fcvt.s.w, fcvt.s.wu
    fun _ h => ⟨rfl, (encodeR_fixedRs2_rm_of_hits h :)⟩,
    fun _ h => ⟨rfl, (encodeR_fixedRs2_rm_of_hits h :)⟩,
    -- fmv.w.x
    fun _ h => ⟨rfl, (encodeR_fixedRs2_of_hits h :)⟩,
    List.forall_mem_nil _⟩

theorem opcodeRowsD_invert : ∀ r ∈ opcodeRowsD, r.inverts := by
  simp only [opcodeRowsD, List.forall_mem_cons]
  exact ⟨
    -- fld
    fun _ h => ⟨rfl, (encodeI_of_hits h :)⟩,
    -- fsd
    fun _ h => ⟨rfl, (encodeS_of_hits h :)⟩,
    -- fmadd.d, fmsub.d, fnmsub.d, fnmadd.d
    fun _ h => ⟨rfl, (encodeR4_of_hits h :)⟩,
    fun _ h => ⟨rfl, (encodeR4_of_hits h :)⟩,
    fun _ h => ⟨rfl, (encodeR4_of_hits h :)⟩,
    fun _ h => ⟨rfl, (encodeR4_of_hits h :)⟩,
    -- fadd.d, fsub.d, fmul.d, fdiv.d
    fun _ h => ⟨rfl, (encodeR_rm_of_hits h :)⟩,
    fun _ h => ⟨rfl, (encodeR_rm_of_hits h :)⟩,
    fun _ h => ⟨rfl, (encodeR_rm_of_hits h :)⟩,
    fun _ h => ⟨rfl, (encodeR_rm_of_hits h :)⟩,
    -- fsqrt.d
    fun _ h => ⟨rfl, (encodeR_fixedRs2_rm_of_hits h :)⟩,
    -- fsgnj.d, fsgnjn.d, fsgnjx.d, fmin.d, fmax.d
    fun _ h => ⟨rfl, (encodeR_of_hits h :)⟩,
    fun _ h => ⟨rfl, (encodeR_of_hits h :)⟩,
    fun _ h => ⟨rfl, (encodeR_of_hits h :)⟩,
    fun _ h => ⟨rfl, (encodeR_of_hits h :)⟩,
    fun _ h => ⟨rfl, (encodeR_of_hits h :)⟩,
    -- fcvt.s.d, fcvt.d.s
    fun _ h => ⟨rfl, (encodeR_fixedRs2_rm_of_hits h :)⟩,
    fun _ h => ⟨rfl, (encodeR_fixedRs2_rm_of_hits h :)⟩,
    -- feq.d, flt.d, fle.d
    fun _ h => ⟨rfl, (encodeR_of_hits h :)⟩,
    fun _ h => ⟨rfl, (encodeR_of_hits h :)⟩,
    fun _ h => ⟨rfl, (encodeR_of_hits h :)⟩,
    -- fclass.d
    fun _ h => ⟨rfl, (encodeR_fixedRs2_of_hits h :)⟩,
    -- fcvt.w.d, fcvt.wu.d, fcvt.d.w, fcvt.d.wu
    fun _ h => ⟨rfl, (encodeR_fixedRs2_rm_of_hits h :)⟩,
    fun _ h => ⟨rfl, (encodeR_fixedRs2_rm_of_hits h :)⟩,
    fun _ h => ⟨rfl, (encodeR_fixedRs2_rm_of_hits h :)⟩,
    fun _ h => ⟨rfl, (encodeR_fixedRs2_rm_of_hits h :)⟩,
    List.forall_mem_nil _⟩

theorem opcodeRowsBase_invert : ∀ r ∈ opcodeRowsBase, r.inverts := by
  simp only [opcodeRowsBase, List.forall_mem_cons]
  exact ⟨
    -- lui
    fun _ h => ⟨rfl, (encodeU_of_hits h :)⟩,
    -- addi
    fun _ h => ⟨rfl, (encodeI_of_hits h :)⟩,
    -- add, sub, slli
    fun _ h => ⟨rfl, (encodeR_of_hits h :)⟩,
    fun _ h => ⟨rfl, (encodeR_of_hits h :)⟩,
    fun _ h => ⟨rfl, (encodeR_of_hits h :)⟩,
    -- lw
    fun _ h => ⟨rfl, (encodeI_of_hits h :)⟩,
    -- sw
    fun _ h => ⟨rfl, (encodeS_of_hits h :)⟩,
    -- beq, bne, blt
    fun w h => ⟨evenOffset_immB w, (encodeB_of_hits h :)⟩,
    fun w h => ⟨evenOffset_immB w, (encodeB_of_hits h :)⟩,
    fun w h => ⟨evenOffset_immB w, (encodeB_of_hits h :)⟩,
    -- jal
    fun w h => ⟨evenOffset_immJ w, (encodeJ_of_hits h :)⟩,
    -- jalr, csrrw, csrrs, csrrc, csrrwi, csrrsi, csrrci
    fun _ h => ⟨rfl, (encodeI_of_hits h :)⟩,
    fun _ h => ⟨rfl, (encodeI_of_hits h :)⟩,
    fun _ h => ⟨rfl, (encodeI_of_hits h :)⟩,
    fun _ h => ⟨rfl, (encodeI_of_hits h :)⟩,
    fun _ h => ⟨rfl, (encodeI_of_hits h :)⟩,
    fun _ h => ⟨rfl, (encodeI_of_hits h :)⟩,
    fun _ h => ⟨rfl, (encodeI_of_hits h :)⟩,
    -- ecall, ebreak
    fun _ h => ⟨rfl, word_of_hits h⟩,
    fun _ h => ⟨rfl, word_of_hits h⟩,
    List.forall_mem_nil _⟩

theorem opcodeRows_invert {r : Row} (h : r ∈ opcodeRows) : r.inverts := by
  rw [opcodeRows, List.mem_append, List.mem_append] at h
  obtain (h | h) | h := h
  · exact opcodeRowsF_invert r h
  · exact opcodeRowsD_invert r h
  · exact opcodeRowsBase_invert r h

/-- Settles O3: a decoded word matches the row that reads it, and each row's reading encodes to the word read. -/
theorem encodeOfDecode : Obligations.EncodeOfDecode := by
  intro w i h
  obtain ⟨r, hr, hhits, rfl⟩ := row_of_decodeWord h
  exact opcodeRows_invert hr w (Row.hits_iff.mp hhits)

end Sys2Proof

namespace Sys2Proof.Machine

/-! ### The step on a fetched word (30_encoding.md R66, R68) -/

/-- Settles O5: the decoder answers that the word is illegal, and the step raises with it. -/
theorem unmatchedFloatingPointWordTraps : Obligations.UnmatchedFloatingPointWordTraps := by
  intro s w hrun hfetch hop hrows
  have hd : decodeWord w = .illegal w := (decodeWord_of_no_row hrows).trans (if_pos hop)
  have hstep : step s = raise s .illegalInstruction (some w) := by
    rw [step_of_fetch_ok hrun hfetch, runWord, hd]
  rw [hstep]
  exact raise_traps s .illegalInstruction (some w)

/-- Settles O6: a row that matches is the decoder's, and without one the decoder has no answer. -/
theorem wordsUnderOtherOpcodes : Obligations.WordsUnderOtherOpcodes := by
  intro s w hrun hfetch hop
  rw [step_of_fetch_ok hrun hfetch]
  refine ⟨fun r hr hhits => runWord_of_instr (rowsSelectThemselves r hr w hhits) s, fun hrows => ?_⟩
  have hd : decodeWord w = .notDescribed w := (decodeWord_of_no_row hrows).trans (if_neg hop)
  rw [runWord, hd]

end Sys2Proof.Machine
end

section
/-! What an instruction reads of `fcsr`: the mode of a dynamic `rm` field, and nothing else (40_numerics.md R80, R81,
R101; 70_reset_and_hazards.md R219). -/

namespace Sys2Proof.Machine

/-! ### An invalid mode (40_numerics.md R80, R81; 60_exceptions.md R192) -/

/-- A row with an `rm` field evaluates its mode before anything else. -/
theorem exec_eq_withRounding {i : Instr} {rm : RmField} (h : i.roundingField? = some rm) (s : State) :
    ∃ k, exec i s = withRounding i rm s k := by
  cases i with
  | fmaddS | fmsubS | fnmsubS | fnmaddS | faddS | fsubS | fmulS | fdivS | fsqrtS | fcvtWS | fcvtWuS | fcvtSW | fcvtSWu
  | fmaddD | fmsubD | fnmsubD | fnmaddD | faddD | fsubD | fmulD | fdivD | fsqrtD | fcvtSD | fcvtDS | fcvtWD | fcvtWuD
  | fcvtDW | fcvtDWu => cases h; exact ⟨_, rfl⟩
  | _ => cases h

/-- Settles O17: the mode is evaluated first, and an invalid one raises. -/
theorem invalidRoundingModeTraps : Obligations.InvalidRoundingModeTraps := by
  intro i s rm hrm href
  obtain ⟨k, hk⟩ := exec_eq_withRounding hrm s
  rw [hk, withRounding_of_refuses href]
  exact raise_traps s _ _

/-! ### Two runs that differ in `fcsr` -/

/-- If the outcome `r` of state `s` is a next state, then the outcome `r'` of the run with `fcsr = v` is that state with
`fcsr` as `v` and the same flags raised. -/
def SameButFcsr (s : State) (v : Word) (r r' : Result) : Prop :=
  ∀ t, r = .next t → ∃ fl : FlagSet, t.fcsr = s.fcsr ||| fl.setWidth 32 ∧
    r' = .next (t.setFcsr (v ||| fl.setWidth 32))

theorem State.writeX_setFcsr (s : State) (v : Word) (rd : XReg) (a : Word) :
    (s.setFcsr v).writeX rd a = (s.writeX rd a).setFcsr v := by
  unfold State.writeX
  split <;> rfl

namespace SameButFcsr

variable {s : State} {v : Word}

/-- An outcome that raises no flag. -/
theorem of_no_flag {r : Result} {t : State} (ht : t.fcsr = s.fcsr) (hr : r = .next (t.setFcsr v)) :
    SameButFcsr s v (.next t) r := by
  intro u hu
  cases hu
  exact ⟨noFlags, by simp [ht, noFlags], by simp [hr, noFlags]⟩

theorem raise {c : Cause} {tval : Option Word} : SameButFcsr s v (raise s c tval) (raise (s.setFcsr v) c tval) :=
  of_no_flag rfl rfl

theorem finishX {rd : XReg} {r : Word × FlagSet} :
    SameButFcsr s v (finishX s rd r) (finishX (s.setFcsr v) rd r) := by
  intro t ht
  cases ht
  exact ⟨r.2, by simp, by rw [Machine.finishX, s.writeX_setFcsr]; rfl⟩

theorem finishS {rd : FReg} {r : Word × FlagSet} : SameButFcsr s v (finishS s rd r) (finishS (s.setFcsr v) rd r) := by
  intro t ht
  cases ht
  exact ⟨r.2, rfl, rfl⟩

theorem finishD {rd : FReg} {r : DWord × FlagSet} :
    SameButFcsr s v (finishD s rd r) (finishD (s.setFcsr v) rd r) := by
  intro t ht
  cases ht
  exact ⟨r.2, rfl, rfl⟩

theorem writeX {rd : XReg} {a : Word} : SameButFcsr s v (writeXNext s rd a) (writeXNext (s.setFcsr v) rd a) :=
  of_no_flag (by simp) (by rw [writeXNext, s.writeX_setFcsr]; rfl)

theorem writeS {rd : FReg} {a : Word} : SameButFcsr s v (writeSNext s rd a) (writeSNext (s.setFcsr v) rd a) :=
  of_no_flag rfl rfl

theorem writeD {rd : FReg} {a : DWord} : SameButFcsr s v (writeDNext s rd a) (writeDNext (s.setFcsr v) rd a) :=
  of_no_flag rfl rfl

theorem store {m : Memory} : SameButFcsr s v (storeNext s m) (storeNext (s.setFcsr v) m) :=
  of_no_flag rfl rfl

theorem withRounding {i : Instr} {rm : RmField} {k k' : RoundingMode → Result}
    (hrm : (s.setFcsr v).roundingMode? rm = s.roundingMode? rm) (h : ∀ m, SameButFcsr s v (k m) (k' m)) :
    SameButFcsr s v (withRounding i rm s k) (withRounding i rm (s.setFcsr v) k') := by
  unfold Machine.withRounding
  rw [hrm]
  cases s.roundingMode? rm with
  | some m => exact h m
  | none => exact raise

/-- Whether an access is refused does not depend on `fcsr`. -/
theorem withLoad {ea : Word} {n : Nat} {k k' : Result} (h : SameButFcsr s v k k') :
    SameButFcsr s v (withLoad s ea n k) (withLoad (s.setFcsr v) ea n k') := by
  have hfault : (s.setFcsr v).accessFault? ea n .loadAddressMisaligned .loadAccessFault =
    s.accessFault? ea n .loadAddressMisaligned .loadAccessFault := rfl
  unfold Machine.withLoad
  rw [hfault]
  cases s.accessFault? ea n .loadAddressMisaligned .loadAccessFault with
  | some c => exact raise
  | none => exact h

theorem withStore {ea : Word} {n : Nat} {k k' : Result} (h : SameButFcsr s v k k') :
    SameButFcsr s v (withStore s ea n k) (withStore (s.setFcsr v) ea n k') := by
  have hfault : (s.setFcsr v).accessFault? ea n .storeAddressMisaligned .storeAccessFault =
    s.accessFault? ea n .storeAddressMisaligned .storeAccessFault := rfl
  unfold Machine.withStore
  rw [hfault]
  cases s.accessFault? ea n .storeAddressMisaligned .storeAccessFault with
  | some c => exact raise
  | none => exact h

theorem transfer {target : Word} {pre pre' : State} (hpre : pre.fcsr = s.fcsr) (h : pre' = pre.setFcsr v) :
    SameButFcsr s v (transfer s target pre) (transfer (s.setFcsr v) target pre') := by
  by_cases ht : target.toNat % 4 = 0
  · rw [transfer_of_aligned ht, transfer_of_aligned ht, h]
    exact of_no_flag hpre rfl
  · rw [transfer_of_misaligned ht, transfer_of_misaligned ht]
    exact raise

theorem branchIf {off : BitVec 13} {taken : Bool} :
    SameButFcsr s v (branchIf s off taken) (branchIf (s.setFcsr v) off taken) := by
  cases taken with
  | false => exact of_no_flag rfl rfl
  | true => exact transfer rfl rfl

end SameButFcsr

/-- Every row but the CSR instructions, by the shared operations its meaning is made of. -/
theorem exec_sameButFcsr {i : Instr} {s : State} {v : Word} (hi : i.isCsr = false)
    (hrm : ∀ rm, i.roundingField? = some rm → (s.setFcsr v).roundingMode? rm = s.roundingMode? rm) :
    SameButFcsr s v (exec i s) (exec i (s.setFcsr v)) := by
  cases i with
  | fmaddS | fmsubS | fnmsubS | fnmaddS | faddS | fsubS | fmulS | fdivS | fsqrtS | fcvtSW | fcvtSWu | fcvtSD =>
    exact .withRounding (hrm _ rfl) fun _ => .finishS
  | fmaddD | fmsubD | fnmsubD | fnmaddD | faddD | fsubD | fmulD | fdivD | fsqrtD | fcvtDS =>
    exact .withRounding (hrm _ rfl) fun _ => .finishD
  | fcvtWS | fcvtWuS | fcvtWD | fcvtWuD => exact .withRounding (hrm _ rfl) fun _ => .finishX
  | fcvtDW | fcvtDWu => exact .withRounding (hrm _ rfl) fun _ => .writeD
  | fminS | fmaxS => exact .finishS
  | fminD | fmaxD => exact .finishD
  | feqS | fltS | fleS | feqD | fltD | fleD => exact .finishX
  | fsgnjS | fsgnjnS | fsgnjxS | fmvWX => exact .writeS
  | fsgnjD | fsgnjnD | fsgnjxD => exact .writeD
  | fclassS | fclassD | fmvXW | lui | addi | add | sub | slli => exact .writeX
  | flw => exact .withLoad .writeS
  | fld => exact .withLoad .writeD
  | lw => exact .withLoad .writeX
  | fsw | fsd | sw => exact .withStore .store
  | beq | bne | blt => exact .branchIf
  | jal | jalr => exact .transfer (by simp) (State.writeX_setFcsr ..)
  | csrrw | csrrs | csrrc | csrrwi | csrrsi | csrrci => cases hi
  | ecall | ebreak => exact .raise

/-! ### Writing `frm` or the flags first -/

/-- Only the dynamic mode is read from `fcsr`. -/
theorem State.roundingMode?_of_not_dyn {rm : RmField} (h : rm ≠ .dyn) (s t : State) :
    t.roundingMode? rm = s.roundingMode? rm := by
  cases rm with
  | dyn => exact absurd rfl h
  | static | reserved101 | reserved110 => rfl

theorem State.roundingMode?_of_frm {s t : State} (h : t.frm = s.frm) (rm : RmField) :
    t.roundingMode? rm = s.roundingMode? rm := by
  cases rm with
  | dyn => exact congrArg RoundingMode.ofBits? h
  | static | reserved101 | reserved110 => rfl

/-- `fcsr` is its three fields. -/
theorem fcsr_ext {a b : Word} (hflags : a.extractLsb' 0 5 = b.extractLsb' 0 5)
    (hfrm : a.extractLsb' 5 3 = b.extractLsb' 5 3) (hupper : a.extractLsb' 8 24 = b.extractLsb' 8 24) : a = b := by
  have split (c : Word) : c.extractLsb' 8 24 ++ c.extractLsb' 5 3 ++ c.extractLsb' 0 5 = c := by
    rw [BitVec.extractLsb'_append_extractLsb'_eq_extractLsb' (start₁ := 5) (len₁ := 3) (len₂ := 24) rfl]
    exact append_extract (n := 27) (m := 5) c
  rw [← split a, ← split b, hflags, hfrm, hupper]

/-- Accruing commutes with a write of `frm`. -/
theorem State.writeCsr_frm_accrue (s : State) (fl : FlagSet) (v : Word) :
    (s.accrue fl).writeCsr .frm v = (s.writeCsr .frm v).accrue fl := by
  obtain ⟨hupper, hflags, hfrm⟩ := (s.accrue fl).csrWritten_writeCsr .frm v
  obtain ⟨hupper', hflags', hfrm'⟩ := s.csrWritten_writeCsr .frm v
  rw [(s.accrue fl).writeCsr_eq_setFcsr]
  refine congrArg s.setFcsr (fcsr_ext ?_ ?_ ?_)
  · exact hflags.trans (by rw [fflags_accrue, ← hflags', ← fflags_accrue]; rfl)
  · exact hfrm.trans (by rw [← hfrm', ← frm_accrue _ fl]; rfl)
  · exact hupper.trans (by rw [upper_accrue, ← hupper', ← upper_accrue _ fl]; rfl)

/-- Settles O18: with no dynamic mode nothing is read of `fcsr`, and accruing commutes with the write of `frm`. -/
theorem onlyDynamicRoundingReadsFrm : Obligations.OnlyDynamicRoundingReadsFrm := by
  intro i s t v hi hdyn h
  have hrm (rm : RmField) (hfield : i.roundingField? = some rm) :
      (s.setFcsr (s.writeCsr .frm v).fcsr).roundingMode? rm = s.roundingMode? rm :=
    State.roundingMode?_of_not_dyn (fun e => hdyn (hfield.trans (congrArg some e))) _ _
  obtain ⟨fl, hfcsr, hexec⟩ := exec_sameButFcsr hi hrm t h
  rw [s.writeCsr_eq_setFcsr, hexec]
  have hcomm : ((s.accrue fl).writeCsr .frm v).fcsr = ((s.writeCsr .frm v).accrue fl).fcsr :=
    congrArg State.fcsr (s.writeCsr_frm_accrue fl v)
  have hsee : (t.writeCsr .frm v).fcsr = ((s.accrue fl).writeCsr .frm v).fcsr := by
    simp only [State.writeCsr, State.setFcsr_fcsr, State.accrue_fcsr, hfcsr]
  rw [t.writeCsr_eq_setFcsr, hsee, hcomm, State.accrue_fcsr]

/-- Settles O19: a write of the flags leaves the mode, and the same flags are raised on top of either content. -/
theorem resultsDoNotReadTheFlags : Obligations.ResultsDoNotReadTheFlags := by
  intro i s t v hi h
  obtain ⟨-, hflags, hfrm⟩ := s.csrWritten_writeCsr .fflags v
  have hmode (rm : RmField) (_ : i.roundingField? = some rm) :
      (s.setFcsr (s.writeCsr .fflags v).fcsr).roundingMode? rm = s.roundingMode? rm :=
    State.roundingMode?_of_frm hfrm rm
  obtain ⟨fl, hfcsr, hexec⟩ := exec_sameButFcsr hi hmode t h
  have ht : t.fflags = s.fflags ||| fl ∧ t.frm = s.frm := by
    unfold State.fflags State.frm
    rw [hfcsr]
    exact ⟨s.fflags_accrue fl, s.frm_accrue fl⟩
  have hu : ((s.writeCsr .fflags v).accrue fl).fflags = v.extractLsb' 0 5 ||| fl := by
    rw [State.fflags_accrue, hflags]
  have hufrm : ((s.writeCsr .fflags v).accrue fl).frm = t.frm := by
    rw [State.frm_accrue, hfrm, ht.2]
  rw [s.writeCsr_eq_setFcsr]
  exact ⟨_, fl, hexec, rfl, rfl, rfl, rfl, rfl, hufrm, ht.1, hu⟩

end Sys2Proof.Machine
end

section
/-! Positions on a grid, in the numbers of the model and in the reals (40_numerics.md R79, R82). -/

namespace Sys2Proof.Machine

/-! ### The integer square root -/

/-- The search keeps `acc² ≤ n < (acc + 2^bits)²`. -/
theorem isqrtFrom_eq_sqrt {n bits acc : Nat} (hlo : acc * acc ≤ n) (hhi : n < (acc + 2 ^ bits) * (acc + 2 ^ bits)) :
    isqrtFrom n bits acc = Nat.sqrt n := by
  induction bits generalizing acc with
  | zero => exact Nat.eq_sqrt.mpr ⟨hlo, hhi⟩
  | succ bits ih =>
    unfold isqrtFrom
    split_ifs with h
    · refine ih h ?_
      rwa [Nat.add_assoc, ← Nat.two_mul, ← Nat.pow_succ']
    · exact ih hlo (by omega)

theorem isqrt_eq_sqrt (n : Nat) : isqrt n = Nat.sqrt n := by
  refine isqrtFrom_eq_sqrt (Nat.zero_le n) ?_
  calc n < 2 ^ (n.log2 + 1) := Nat.lt_log2_self
    _ ≤ 2 ^ ((n.log2 / 2 + 1) + (n.log2 / 2 + 1)) := Nat.pow_le_pow_right (by omega) (by omega)
    _ = (0 + 2 ^ (n.log2 / 2 + 1)) * (0 + 2 ^ (n.log2 / 2 + 1)) := by rw [Nat.pow_add, Nat.zero_add]

/-! ### Positions in the natural numbers -/

theorem Rest.ofHalf_eq_exact_iff (z : Bool) (a b : Nat) : Rest.ofHalf z (compare a b) = .exact ↔ z = true := by
  cases z <;> rcases h : compare a b <;> simp [Rest.ofHalf]

theorem Rest.ofHalf_eq_belowHalf_iff (z : Bool) (a b : Nat) :
    Rest.ofHalf z (compare a b) = .belowHalf ↔ z = false ∧ a < b := by
  rw [← Nat.compare_eq_lt]
  cases z <;> rcases h : compare a b <;> simp [Rest.ofHalf]

theorem Rest.ofHalf_eq_half_iff (z : Bool) (a b : Nat) :
    Rest.ofHalf z (compare a b) = .half ↔ z = false ∧ a = b := by
  rw [← Nat.compare_eq_eq]
  cases z <;> rcases h : compare a b <;> simp [Rest.ofHalf]

theorem Rest.ofHalf_eq_aboveHalf_iff (z : Bool) (a b : Nat) :
    Rest.ofHalf z (compare a b) = .aboveHalf ↔ z = false ∧ b < a := by
  rw [← Nat.compare_eq_gt]
  cases z <;> rcases h : compare a b <;> simp [Rest.ofHalf]

/-- Settles O46: the quotient and the remainder of a division, and the integer square root of the quotient. -/
theorem gridPositionIsExact : Obligations.GridPositionIsExact := by
  constructor
  · rintro num den hden k r h
    obtain ⟨rfl, rfl⟩ := Prod.mk.inj h
    have hdiv : num / den * den + num % den = num := Nat.div_add_mod' num den
    have hmod : num % den < den := Nat.mod_lt num hden
    have hhalf : (2 * (num / den) + 1) * den = 2 * (num / den * den) + den := by ring
    have hstep : (num / den + 1) * den = num / den * den + den := by ring
    simp only [Rest.ofHalf_eq_exact_iff, Rest.ofHalf_eq_belowHalf_iff, Rest.ofHalf_eq_half_iff,
      Rest.ofHalf_eq_aboveHalf_iff, beq_iff_eq, beq_eq_false_iff_ne, hhalf, hstep]
    generalize num / den * den = q at *
    omega
  · rintro num den hden k r h
    obtain ⟨rfl, rfl⟩ := Prod.mk.inj h
    rw [isqrt_eq_sqrt]
    generalize hk : Nat.sqrt (num / den) = k
    obtain ⟨hlo, hhi⟩ := Nat.eq_sqrt.mp hk.symm
    rw [Nat.le_div_iff_mul_le hden] at hlo
    rw [Nat.div_lt_iff_lt_mul hden] at hhi
    have hhalf : (2 * k + 1) * (2 * k + 1) * den = 4 * (k * k * den) + 4 * (k * den) + den := by ring
    simp only [Rest.ofHalf_eq_exact_iff, Rest.ofHalf_eq_belowHalf_iff, Rest.ofHalf_eq_half_iff,
      Rest.ofHalf_eq_aboveHalf_iff, beq_iff_eq, beq_eq_false_iff_ne, hhalf]
    refine ⟨hlo, hhi, ?_⟩
    generalize k * k * den = q at *
    omega

/-! ### Exact numbers as reals (40_numerics.md R75) -/

/-- The real number `num * 2^exp`. -/
noncomputable def BinNum.val (r : BinNum) : ℝ := r.num * 2 ^ r.exp

/-- The real number a magnitude describes. -/
noncomputable def Magnitude.val : Magnitude → ℝ
  | .ratio num den exp => num / den * 2 ^ exp
  | .root num exp => √num * 2 ^ exp

/-- The real of sign `sg` and magnitude `x`. -/
def signed (sg : Bool) (x : ℝ) : ℝ := if sg then -x else x

@[simp] theorem signed_true (x : ℝ) : signed true x = -x := rfl

@[simp] theorem signed_false (x : ℝ) : signed false x = x := rfl

theorem two_zpow_pos (e : ℤ) : (0 : ℝ) < 2 ^ e := zpow_pos two_pos e

theorem two_zpow_lt_iff {d e : ℤ} : (2 : ℝ) ^ d < 2 ^ e ↔ d < e := zpow_lt_zpow_iff_right₀ one_lt_two

theorem two_zpow_le_iff {d e : ℤ} : (2 : ℝ) ^ d ≤ 2 ^ e ↔ d ≤ e := zpow_le_zpow_iff_right₀ one_lt_two

/-- A power that is split into a shift to the left and one to the right. -/
theorem two_zpow_toNat (d e : ℤ) : (2 : ℝ) ^ (d - e).toNat * 2 ^ e = 2 ^ d * 2 ^ (e - d).toNat := by
  rw [← zpow_natCast, ← zpow_natCast, ← zpow_add₀ two_ne_zero, ← zpow_add₀ two_ne_zero]
  congr 1
  omega

theorem BinNum.val_numAt {r : BinNum} {e : ℤ} (h : e ≤ r.exp) : r.val = r.numAt e * 2 ^ e := by
  have hpow : (2 : ℝ) ^ (r.exp - e).toNat * 2 ^ e = 2 ^ r.exp := by
    rw [← zpow_natCast, ← zpow_add₀ two_ne_zero]
    congr 1
    omega
  rw [BinNum.val, BinNum.numAt, Int.cast_mul, ← hpow]
  push_cast
  ring

theorem BinNum.lt_iff (r q : BinNum) : r.lt q = true ↔ r.val < q.val := by
  rw [BinNum.val_numAt (min_le_left r.exp q.exp), BinNum.val_numAt (min_le_right r.exp q.exp), BinNum.lt,
    decide_eq_true_iff, mul_lt_mul_iff_left₀ (two_zpow_pos _), Int.cast_lt]

theorem BinNum.beq_iff (r q : BinNum) : r.beq q = true ↔ r.val = q.val := by
  rw [BinNum.val_numAt (min_le_left r.exp q.exp), BinNum.val_numAt (min_le_right r.exp q.exp), BinNum.beq,
    decide_eq_true_iff, mul_left_inj' (two_zpow_pos _).ne', Int.cast_inj]

theorem BinNum.le_iff (r q : BinNum) : r.le q = true ↔ r.val ≤ q.val := by
  rw [BinNum.le, Bool.not_eq_true', ← Bool.not_eq_true, BinNum.lt_iff, not_lt]

theorem BinNum.sameValue_iff (r q : BinNum) : r.sameValue q ↔ r.val = q.val := BinNum.beq_iff r q

@[simp] theorem BinNum.val_add (r q : BinNum) : (r.add q).val = r.val + q.val := by
  rw [BinNum.val_numAt (min_le_left r.exp q.exp), BinNum.val_numAt (min_le_right r.exp q.exp), BinNum.val,
    BinNum.add, Int.cast_add, add_mul]

@[simp] theorem BinNum.val_mul (r q : BinNum) : (r.mul q).val = r.val * q.val := by
  rw [BinNum.val, BinNum.val, BinNum.val, BinNum.mul, zpow_add₀ two_ne_zero]
  push_cast
  ring

@[simp] theorem BinNum.val_negIf (c : Bool) (r : BinNum) : (r.negIf c).val = signed c r.val := by
  cases c <;> simp [BinNum.negIf, BinNum.val]

@[simp] theorem BinNum.val_half (r : BinNum) : r.half.val = r.val / 2 := by
  rw [BinNum.val, BinNum.half, zpow_sub_one₀ two_ne_zero, BinNum.val]
  ring

theorem BinNum.val_pos_iff (r : BinNum) : 0 < r.val ↔ 0 < r.num := by
  rw [BinNum.val, mul_pos_iff_of_pos_right (two_zpow_pos _), Int.cast_pos]

theorem BinNum.val_neg_iff (r : BinNum) : r.val < 0 ↔ r.num < 0 := by
  rw [← not_le, ← not_le, BinNum.val, mul_nonneg_iff_of_pos_right (two_zpow_pos _), Int.cast_nonneg_iff]

theorem BinNum.val_eq_zero_iff (r : BinNum) : r.val = 0 ↔ r.num = 0 := by
  rw [BinNum.val, mul_eq_zero_iff_right (two_zpow_pos _).ne', Int.cast_eq_zero]

theorem BinNum.abs_val (r : BinNum) : |r.val| = |(r.num : ℝ)| * 2 ^ r.exp := by
  rw [BinNum.val, abs_mul, abs_of_pos (two_zpow_pos _)]

theorem Magnitude.val_pos {a : Magnitude} (h : a.positive = true) : 0 < a.val := by
  cases a with
  | ratio num den exp =>
    simp only [Magnitude.positive, Bool.and_eq_true, decide_eq_true_eq] at h
    have hnum : (0 : ℝ) < num := Nat.cast_pos.mpr h.1
    have hden : (0 : ℝ) < den := Nat.cast_pos.mpr h.2
    exact mul_pos (div_pos hnum hden) (two_zpow_pos _)
  | root num exp =>
    simp only [Magnitude.positive, decide_eq_true_eq] at h
    exact mul_pos (Real.sqrt_pos.mpr (Nat.cast_pos.mpr h)) (two_zpow_pos _)

/-! ### Comparing an exact number with a real -/

/-- The two sides are the images of `|q|` and of the magnitude under one increasing function: multiplication by the
denominator, or squaring. -/
theorem Magnitude.exists_strictMonoOn_against {a : Magnitude} (h : a.positive = true) (q : BinNum) :
    ∃ φ : ℝ → ℝ, StrictMonoOn φ (Set.Ici 0) ∧ (a.against q).1.val = φ |q.val| ∧ (a.against q).2.val = φ a.val := by
  rw [q.abs_val]
  cases a with
  | ratio num den exp =>
    simp only [Magnitude.positive, Bool.and_eq_true, decide_eq_true_eq] at h
    have hden : (0 : ℝ) < den := Nat.cast_pos.mpr h.2
    refine ⟨(· * den), (strictMono_mul_right_of_pos hden).strictMonoOn _, ?_, ?_⟩
    · simp only [Magnitude.against, BinNum.val]
      push_cast
      ring
    · simp only [Magnitude.against, BinNum.val, Magnitude.val]
      push_cast
      field_simp
  | root num exp =>
    refine ⟨(· ^ 2), fun x hx y _ hxy => pow_lt_pow_left₀ hxy hx two_ne_zero, ?_, ?_⟩
    · simp only [Magnitude.against, BinNum.val, mul_pow, two_mul, zpow_add₀ (two_ne_zero' ℝ)]
      push_cast
      ring
    · simp only [Magnitude.against, BinNum.val, Magnitude.val, mul_pow, Real.sq_sqrt (Nat.cast_nonneg num), two_mul,
        zpow_add₀ (two_ne_zero' ℝ)]
      push_cast
      ring

theorem Magnitude.against_le_iff {a : Magnitude} (h : a.positive = true) (q : BinNum) :
    (a.against q).1.le (a.against q).2 = true ↔ |q.val| ≤ a.val := by
  obtain ⟨φ, hφ, hq, ha⟩ := Magnitude.exists_strictMonoOn_against h q
  rw [BinNum.le_iff, hq, ha, hφ.le_iff_le (Set.mem_Ici.mpr (abs_nonneg _)) (Magnitude.val_pos h).le]

theorem Magnitude.le_against_iff {a : Magnitude} (h : a.positive = true) (q : BinNum) :
    (a.against q).2.le (a.against q).1 = true ↔ a.val ≤ |q.val| := by
  obtain ⟨φ, hφ, hq, ha⟩ := Magnitude.exists_strictMonoOn_against h q
  rw [BinNum.le_iff, hq, ha, hφ.le_iff_le (Magnitude.val_pos h).le (Set.mem_Ici.mpr (abs_nonneg _))]

theorem leReal_iff {a : Magnitude} (h : a.positive = true) (q : BinNum) (sg : Bool) :
    leReal q sg a = true ↔ q.val ≤ signed sg a.val := by
  have hpos := Magnitude.val_pos h
  cases sg with
  | true =>
    simp only [leReal, if_true, Bool.and_eq_true, decide_eq_true_eq, Magnitude.le_against_iff h, signed_true,
      ← BinNum.val_neg_iff]
    constructor
    · rintro ⟨hq, hle⟩
      rw [abs_of_neg hq] at hle
      linarith
    · exact fun hle => ⟨by linarith, (le_neg_of_le_neg hle).trans (neg_le_abs _)⟩
  | false =>
    simp only [leReal, Bool.false_eq_true, if_false, Bool.or_eq_true, decide_eq_true_eq, Magnitude.against_le_iff h,
      signed_false, ← not_lt (b := q.num), ← BinNum.val_pos_iff]
    constructor
    · rintro (hq | hle)
      · linarith
      · exact (le_abs_self _).trans hle
    · intro hle
      by_cases hq : 0 < q.val
      · exact .inr ((abs_of_pos hq).trans_le hle)
      · exact .inl hq

theorem realLe_iff {a : Magnitude} (h : a.positive = true) (q : BinNum) (sg : Bool) :
    realLe sg a q = true ↔ signed sg a.val ≤ q.val := by
  have hpos := Magnitude.val_pos h
  cases sg with
  | true =>
    simp only [realLe, if_true, Bool.or_eq_true, decide_eq_true_eq, Magnitude.against_le_iff h, signed_true,
      ← not_lt (a := q.num), ← BinNum.val_neg_iff]
    constructor
    · rintro (hq | hle)
      · linarith
      · linarith [neg_abs_le q.val]
    · intro hle
      by_cases hq : q.val < 0
      · exact .inr (abs_le.mpr ⟨hle, by linarith⟩)
      · exact .inl hq
  | false =>
    simp only [realLe, Bool.false_eq_true, if_false, Bool.and_eq_true, decide_eq_true_eq, Magnitude.le_against_iff h,
      signed_false, ← BinNum.val_pos_iff]
    constructor
    · rintro ⟨hq, hle⟩
      rwa [abs_of_pos hq] at hle
    · exact fun hle => ⟨by linarith, hle.trans (le_abs_self _)⟩

end Sys2Proof.Machine
end

section
/-! Where a real lies among the terms of a rising sequence, and what each mode picks there (40_numerics.md R79, R82). -/

namespace Sys2Proof.Machine

/-! ### Positions in a rising sequence of reals -/

/-- `x` lies at `lo` or strictly between `lo` and `hi`, on the side of their midpoint that the rest names. -/
def Rest.At (r : Rest) (x lo hi : ℝ) : Prop :=
  match r with
  | .exact => x = lo
  | .belowHalf => lo < x ∧ 2 * x < lo + hi
  | .half => 2 * x = lo + hi
  | .aboveHalf => lo + hi < 2 * x ∧ x < hi

/-- Between two different terms, only one rest is right. -/
theorem Rest.At.unique {r r' : Rest} {x lo hi : ℝ} (h : r.At x lo hi) (hlt : lo < hi) (h' : r'.At x lo hi) :
    r = r' := by
  cases r <;> cases r' <;> simp only [Rest.At, reduceCtorEq] at h h' ⊢ <;> linarith

/-- The position of `x` in the sequence `g`: the last term not above `x`, and where `x` lies before the next one. -/
def IsPosition (g : ℕ → ℝ) (x : ℝ) (pos : ℕ × Rest) : Prop := pos.2.At x (g pos.1) (g (pos.1 + 1))

namespace IsPosition

variable {g : ℕ → ℝ} {x : ℝ} {pos : ℕ × Rest}

theorem eq_or_lt (hg : StrictMono g) (h : IsPosition g x pos) :
    (pos.2 = .exact ∧ x = g pos.1) ∨ (pos.2 ≠ .exact ∧ g pos.1 < x ∧ x < g (pos.1 + 1)) := by
  obtain ⟨n, r⟩ := pos
  have hstep : g n < g (n + 1) := hg (Nat.lt_succ_self n)
  cases r <;> simp only [IsPosition, Rest.At, reduceCtorEq, ne_eq, not_true_eq_false, not_false_eq_true,
    true_and, false_and, or_false, false_or] at h ⊢
  case exact => exact h
  case belowHalf => constructor <;> linarith
  case half => constructor <;> linarith
  case aboveHalf => constructor <;> linarith

theorem le (hg : StrictMono g) (h : IsPosition g x pos) : g pos.1 ≤ x := by
  obtain ⟨-, he⟩ | ⟨-, hlt, -⟩ := h.eq_or_lt hg
  · exact he.ge
  · exact hlt.le

theorem lt (hg : StrictMono g) (h : IsPosition g x pos) : x < g (pos.1 + 1) := by
  obtain ⟨-, he⟩ | ⟨-, -, hlt⟩ := h.eq_or_lt hg
  · exact he.trans_lt (hg (Nat.lt_succ_self _))
  · exact hlt

theorem exact_iff (hg : StrictMono g) (h : IsPosition g x pos) : pos.2 = .exact ↔ x = g pos.1 := by
  obtain ⟨he, hx⟩ | ⟨he, hlt, -⟩ := h.eq_or_lt hg
  · exact iff_of_true he hx
  · exact iff_of_false he hlt.ne'

/-- The terms not above `x` are those up to the position. -/
theorem le_fst_iff (hg : StrictMono g) (h : IsPosition g x pos) {n : ℕ} : n ≤ pos.1 ↔ g n ≤ x := by
  refine ⟨fun hn => (hg.monotone hn).trans (h.le hg), fun hn => ?_⟩
  exact Nat.lt_succ_iff.mp (hg.lt_iff_lt.mp (hn.trans_lt (h.lt hg)))

/-- A real has one position. -/
theorem unique (hg : StrictMono g) (h : IsPosition g x pos) {pos' : ℕ × Rest} (h' : IsPosition g x pos') :
    pos' = pos := by
  have hn : pos'.1 = pos.1 :=
    le_antisymm ((h.le_fst_iff hg).mpr (h'.le hg)) ((h'.le_fst_iff hg).mpr (h.le hg))
  have hr : pos'.2 = pos.2 := by
    rw [IsPosition, hn] at h'
    exact h'.unique (hg (Nat.lt_succ_self _)) h
  exact Prod.ext hn hr

end IsPosition

/-! ### What the modes pick -/

/-- The modes that pick the neighbour of smaller magnitude, for a real of sign `sg`. -/
def towardZero (m : RoundingMode) (sg : Bool) : Bool :=
  match m with
  | .rtz => true
  | .rdn => !sg
  | .rup => sg
  | .rne | .rmm => false

/-- The modes that pick the neighbour of greater magnitude, for a real of sign `sg`. -/
def awayFromZero (m : RoundingMode) (sg : Bool) : Bool :=
  match m with
  | .rdn => sg
  | .rup => !sg
  | .rtz | .rne | .rmm => false

theorem pick_of_exact {m : RoundingMode} {sg : Bool} {pos : ℕ × Rest} (h : pos.2 = .exact) :
    pick m sg pos = pos.1 := by
  rw [pick, h]

theorem pick_of_towardZero {m : RoundingMode} {sg : Bool} (h : towardZero m sg = true) (pos : ℕ × Rest) :
    pick m sg pos = pos.1 := by
  obtain ⟨n, r⟩ := pos
  cases m with
  | rtz => cases r <;> rfl
  | rdn | rup => cases sg <;> cases r <;> trivial
  | rne | rmm => cases h

theorem pick_of_awayFromZero {m : RoundingMode} {sg : Bool} (h : awayFromZero m sg = true) {pos : ℕ × Rest}
    (hr : pos.2 ≠ .exact) : pick m sg pos = pos.1 + 1 := by
  obtain ⟨n, r⟩ := pos
  cases m with
  | rdn | rup => cases sg <;> cases r <;> trivial
  | rtz | rne | rmm => cases h

/-- The nearest modes pick by the side of the midpoint, and at the midpoint the even term (`rne`) or the upper one. -/
theorem pick_nearest (sg : Bool) (n : ℕ) (r : Rest) :
    pick .rne sg (n, r) = (if r = .aboveHalf ∨ (r = .half ∧ n % 2 = 1) then n + 1 else n) ∧
    pick .rmm sg (n, r) = if r = .aboveHalf ∨ r = .half then n + 1 else n := by
  cases r with
  | half =>
    refine ⟨?_, rfl⟩
    rcases Nat.mod_two_eq_zero_or_one n with h | h <;> simp [pick, h]
  | exact | belowHalf | aboveHalf => exact ⟨rfl, rfl⟩

/-- Every mode picks one of the two neighbours, and the upper one only off the sequence. -/
theorem pick_cases (m : RoundingMode) (sg : Bool) (pos : ℕ × Rest) :
    pick m sg pos = pos.1 ∨ (pos.2 ≠ .exact ∧ pick m sg pos = pos.1 + 1) := by
  by_cases hr : pos.2 = .exact
  · exact .inl (pick_of_exact hr)
  rw [and_iff_right hr]
  cases m with
  | rtz => exact .inl (pick_of_towardZero rfl pos)
  | rdn =>
    cases sg with
    | false => exact .inl (pick_of_towardZero rfl pos)
    | true => exact .inr (pick_of_awayFromZero rfl hr)
  | rup =>
    cases sg with
    | false => exact .inr (pick_of_awayFromZero rfl hr)
    | true => exact .inl (pick_of_towardZero rfl pos)
  | rne =>
    rw [(pick_nearest sg pos.1 pos.2).1]
    exact (ite_eq_or_eq ..).symm
  | rmm =>
    rw [(pick_nearest sg pos.1 pos.2).2]
    exact (ite_eq_or_eq ..).symm

/-- An even shift of the sequence shifts what is picked. -/
theorem pick_add_even {j : ℕ} (hj : j % 2 = 0) (m : RoundingMode) (sg : Bool) (n : ℕ) (r : Rest) :
    pick m sg (j + n, r) = j + pick m sg (n, r) := by
  cases m with
  | rtz => cases r <;> rfl
  | rdn | rup => cases sg <;> cases r <;> rfl
  | rne =>
    rw [(pick_nearest sg _ r).1, (pick_nearest sg n r).1, Nat.add_mod, hj, Nat.zero_add, Nat.mod_mod]
    split_ifs <;> rfl
  | rmm =>
    rw [(pick_nearest sg _ r).2, (pick_nearest sg n r).2]
    split_ifs <;> rfl

namespace IsPosition

variable {g : ℕ → ℝ} {x : ℝ} {pos : ℕ × Rest} {m : RoundingMode} {sg : Bool} {n : ℕ}

/-- No mode picks below a term that is not above `x`. -/
theorem le_pick (hg : StrictMono g) (h : IsPosition g x pos) (hn : g n ≤ x) : n ≤ pick m sg pos := by
  have hpos := (h.le_fst_iff hg).mpr hn
  rcases pick_cases m sg pos with hp | ⟨-, hp⟩ <;> omega

/-- No mode picks above a term that is not below `x`. -/
theorem pick_le (hg : StrictMono g) (h : IsPosition g x pos) (hn : x ≤ g n) : pick m sg pos ≤ n := by
  rcases pick_cases m sg pos with hp | ⟨hr, hp⟩
  · rw [hp]
    exact hg.le_iff_le.mp ((h.le hg).trans hn)
  · rw [hp]
    have hlt : g pos.1 < x := (h.le hg).lt_of_ne' fun he => hr ((h.exact_iff hg).mpr he)
    exact hg.lt_iff_lt.mp (hlt.trans_le hn)

theorem le_pick_towardZero_iff (hg : StrictMono g) (h : IsPosition g x pos) (hm : towardZero m sg = true) :
    n ≤ pick m sg pos ↔ g n ≤ x := by
  rw [pick_of_towardZero hm, h.le_fst_iff hg]

theorem pick_awayFromZero_le_iff (hg : StrictMono g) (h : IsPosition g x pos) (hm : awayFromZero m sg = true) :
    pick m sg pos ≤ n ↔ x ≤ g n := by
  refine ⟨fun hn => ?_, h.pick_le hg⟩
  by_cases hr : pos.2 = .exact
  · rw [pick_of_exact hr] at hn
    rw [(h.exact_iff hg).mp hr]
    exact hg.monotone hn
  · rw [pick_of_awayFromZero hm hr] at hn
    exact (h.lt hg).le.trans (hg.monotone hn)

/-- Below the position every midpoint is below `x`, and above it every midpoint is above `x`. -/
theorem midpoint_cases (hg : StrictMono g) (h : IsPosition g x pos) (n : ℕ) :
    (n < pos.1 ∧ g n + g (n + 1) < 2 * x) ∨ (pos.1 < n ∧ 2 * x < g n + g (n + 1)) ∨ n = pos.1 := by
  rcases lt_trichotomy n pos.1 with hlt | he | hgt
  · refine .inl ⟨hlt, ?_⟩
    have h0 := hg hlt
    have h1 := hg.monotone (show n + 1 ≤ pos.1 from hlt)
    linarith [h.le hg]
  · exact .inr (.inr he)
  · refine .inr (.inl ⟨hgt, ?_⟩)
    have h0 := hg.monotone (show pos.1 + 1 ≤ n from hgt)
    have h1 := hg (Nat.lt_succ_self n)
    linarith [h.lt hg]

/-- Rounding to nearest with ties away from zero goes above a term from the midpoint on. -/
theorem lt_pick_rmm_iff (hg : StrictMono g) (h : IsPosition g x pos) :
    n < pick .rmm sg pos ↔ g n + g (n + 1) ≤ 2 * x := by
  have hpick := (pick_nearest sg pos.1 pos.2).2
  rcases h.midpoint_cases hg n with ⟨hn, hx⟩ | ⟨hn, hx⟩ | rfl
  · exact iff_of_true (hn.trans_le (h.le_pick hg (h.le hg))) hx.le
  · exact iff_of_false (not_lt.mpr ((h.pick_le hg (h.lt hg).le).trans hn)) (not_le.mpr hx)
  · have hat := h
    have hstep := hg (Nat.lt_succ_self pos.1)
    rw [hpick]
    obtain ⟨k, r⟩ := pos
    cases r <;> simp only [IsPosition, Rest.At] at hat <;> simp <;> linarith

/-- Rounding to nearest with ties to even goes above an odd term from the midpoint on. -/
theorem lt_pick_rne_iff_of_odd (hg : StrictMono g) (h : IsPosition g x pos) (hn : n % 2 = 1) :
    n < pick .rne sg pos ↔ g n + g (n + 1) ≤ 2 * x := by
  have hpick := (pick_nearest sg pos.1 pos.2).1
  rcases h.midpoint_cases hg n with ⟨hn, hx⟩ | ⟨hn, hx⟩ | rfl
  · exact iff_of_true (hn.trans_le (h.le_pick hg (h.le hg))) hx.le
  · exact iff_of_false (not_lt.mpr ((h.pick_le hg (h.lt hg).le).trans hn)) (not_le.mpr hx)
  · have hat := h
    have hstep := hg (Nat.lt_succ_self pos.1)
    rw [hpick]
    obtain ⟨k, r⟩ := pos
    cases r <;> simp only [IsPosition, Rest.At] at hat <;> simp [hn] <;> linarith

end IsPosition

/-! ### A magnitude on a grid of spacing `2^t` (40_numerics.md R82) -/

/-- The points of the grid of spacing `2^t`. -/
noncomputable def gridPoint (t : ℤ) (k : ℕ) : ℝ := k * 2 ^ t

theorem gridPoint_strictMono (t : ℤ) : StrictMono (gridPoint t) := fun _ _ h =>
  mul_lt_mul_of_pos_right (Nat.cast_lt.mpr h) (two_zpow_pos t)

/-- A position is kept when the sequence and the real are scaled alike. -/
theorem IsPosition.scale {g : ℕ → ℝ} {x : ℝ} {pos : ℕ × Rest} (h : IsPosition g x pos) {c : ℝ} (hc : 0 < c) :
    IsPosition (fun k => g k * c) (x * c) pos := by
  obtain ⟨n, r⟩ := pos
  cases r <;> simp only [IsPosition, Rest.At] at h ⊢
  case exact => rw [h]
  case belowHalf => constructor <;> nlinarith
  case half => linear_combination c * h
  case aboveHalf => constructor <;> nlinarith

theorem ratioOnGrid_isPosition (num : ℕ) {den : ℕ} (hden : 0 < den) :
    IsPosition (fun k => (k : ℝ)) (num / den) (ratioOnGrid num den) := by
  have hden' : (0 : ℝ) < den := Nat.cast_pos.mpr hden
  rcases hpos : ratioOnGrid num den with ⟨k, r⟩
  obtain ⟨-, hhi, hexact, hbelow, hhalf, habove⟩ := gridPositionIsExact.1 num den hden k r hpos
  simp only [IsPosition]
  push_cast
  cases r with
  | exact =>
    rw [Rest.At, div_eq_iff hden'.ne']
    exact_mod_cast hexact.mp rfl
  | belowHalf =>
    rw [Rest.At, lt_div_iff₀ hden', ← mul_div_assoc, div_lt_iff₀ hden']
    have h := hbelow.mp rfl
    rw [two_mul k, Nat.add_assoc] at h
    exact_mod_cast h
  | half =>
    rw [Rest.At, ← mul_div_assoc, div_eq_iff hden'.ne']
    have h := hhalf.mp rfl
    rw [two_mul k, Nat.add_assoc] at h
    exact_mod_cast h
  | aboveHalf =>
    rw [Rest.At, ← mul_div_assoc, lt_div_iff₀ hden', div_lt_iff₀ hden']
    have h := habove.mp rfl
    rw [two_mul k, Nat.add_assoc] at h
    exact_mod_cast And.intro h hhi

theorem rootOnGrid_isPosition (num : ℕ) {den : ℕ} (hden : 0 < den) :
    IsPosition (fun k => (k : ℝ)) √(num / den) (rootOnGrid num den) := by
  have hden' : (0 : ℝ) < den := Nat.cast_pos.mpr hden
  rcases hpos : rootOnGrid num den with ⟨k, r⟩
  obtain ⟨-, hhi, hexact, hbelow, hhalf, habove⟩ := gridPositionIsExact.2 num den hden k r hpos
  have hk : (0 : ℝ) ≤ k := Nat.cast_nonneg k
  have htwo : 2 * √((num : ℝ) / den) = √(4 * num / den) := by
    rw [mul_div_assoc, Real.sqrt_mul (by norm_num), show (4 : ℝ) = 2 ^ 2 by norm_num,
      Real.sqrt_sq (by norm_num)]
  have hsum : (k : ℝ) + (k + 1) = 2 * k + 1 := by ring
  simp only [IsPosition]
  push_cast
  cases r with
  | exact =>
    rw [Rest.At, Real.sqrt_eq_iff_mul_self_eq (by positivity) hk, div_eq_iff hden'.ne']
    exact_mod_cast hexact.mp rfl
  | belowHalf =>
    rw [Rest.At, htwo, hsum, Real.lt_sqrt hk, Real.sqrt_lt' (by positivity), lt_div_iff₀ hden', div_lt_iff₀ hden',
      sq, sq]
    exact_mod_cast hbelow.mp rfl
  | half =>
    rw [Rest.At, htwo, hsum, Real.sqrt_eq_iff_mul_self_eq (by positivity) (by positivity), div_eq_iff hden'.ne']
    exact_mod_cast hhalf.mp rfl
  | aboveHalf =>
    rw [Rest.At, htwo, hsum, Real.lt_sqrt (by positivity), Real.sqrt_lt' (by positivity), lt_div_iff₀ hden',
      div_lt_iff₀ hden', sq, sq]
    exact_mod_cast And.intro (habove.mp rfl) hhi

/-- The model's position of a magnitude is its position among the points of the grid. -/
theorem Magnitude.onGrid_isPosition {a : Magnitude} (h : a.positive = true) (t : ℤ) :
    IsPosition (gridPoint t) a.val (a.onGrid t) := by
  cases a with
  | ratio num den exp =>
    simp only [Magnitude.positive, Bool.and_eq_true, decide_eq_true_eq] at h
    have hden : (0 : ℝ) < den := Nat.cast_pos.mpr h.2
    have hpos := (ratioOnGrid_isPosition (num * 2 ^ (exp - t).toNat) (den := den * 2 ^ (t - exp).toNat)
      (Nat.mul_pos h.2 (Nat.two_pow_pos _))).scale (two_zpow_pos t)
    have hsplit := two_zpow_toNat exp t
    have hval : (Magnitude.ratio num den exp).val =
        (num * 2 ^ (exp - t).toNat : ℕ) / (den * 2 ^ (t - exp).toNat : ℕ) * 2 ^ t := by
      simp only [Magnitude.val]
      push_cast
      rw [div_mul_eq_mul_div, div_mul_eq_mul_div, mul_assoc (num : ℝ), hsplit]
      field_simp
    rw [hval]
    exact hpos
  | root num exp =>
    have hpos := (rootOnGrid_isPosition (num * 4 ^ (exp - t).toNat) (den := 4 ^ (t - exp).toNat)
      (Nat.pow_pos (by omega))).scale (two_zpow_pos t)
    have hsplit := two_zpow_toNat exp t
    have hfour (n : ℕ) : √((4 : ℝ) ^ n) = 2 ^ n := by
      rw [show (4 : ℝ) = 2 * 2 by norm_num, mul_pow, Real.sqrt_mul_self (by positivity)]
    have hval : (Magnitude.root num exp).val =
        √((num * 4 ^ (exp - t).toNat : ℕ) / (4 ^ (t - exp).toNat : ℕ)) * 2 ^ t := by
      simp only [Magnitude.val]
      push_cast
      rw [Real.sqrt_div (by positivity), Real.sqrt_mul (by positivity), hfour, hfour, div_mul_eq_mul_div,
        mul_assoc √_, hsplit]
      field_simp
    rw [hval]
    exact hpos

/-! ### The exponent of a magnitude (40_numerics.md R82) -/

theorem two_pow_log2_le {n : ℕ} (h : 0 < n) : (2 : ℝ) ^ (n.log2 : ℤ) ≤ n := by
  rw [zpow_natCast]
  exact_mod_cast Nat.log2_self_le h.ne'

theorem lt_two_pow_log2 (n : ℕ) : (n : ℝ) < 2 ^ (n.log2 + 1 : ℤ) := by
  have h : n < 2 ^ (n.log2 + 1) := Nat.lt_log2_self
  rw [show ((n.log2 : ℤ) + 1) = (n.log2 + 1 : ℕ) by push_cast; rfl, zpow_natCast]
  exact_mod_cast h

theorem Magnitude.log2Upper_bounds {a : Magnitude} (h : a.positive = true) :
    2 ^ (a.log2Upper - 1) ≤ a.val ∧ a.val < 2 ^ (a.log2Upper + 1) := by
  cases a with
  | ratio num den exp =>
    simp only [Magnitude.positive, Bool.and_eq_true, decide_eq_true_eq] at h
    have hden : (0 : ℝ) < den := Nat.cast_pos.mpr h.2
    have hsplit (d e : ℤ) : (2 : ℝ) ^ (d - e + exp) = 2 ^ d / 2 ^ e * 2 ^ exp := by
      rw [zpow_add₀ two_ne_zero, zpow_sub₀ two_ne_zero]
    rw [Magnitude.log2Upper, Magnitude.val,
      show (num.log2 : ℤ) - den.log2 + exp - 1 = num.log2 - (den.log2 + 1) + exp by ring,
      show (num.log2 : ℤ) - den.log2 + exp + 1 = num.log2 + 1 - den.log2 + exp by ring, hsplit, hsplit]
    constructor
    · gcongr
      · exact two_pow_log2_le h.1
      · exact (lt_two_pow_log2 den).le
    · gcongr
      · exact lt_two_pow_log2 num
      · exact two_pow_log2_le h.2
  | root num exp =>
    simp only [Magnitude.positive, decide_eq_true_eq] at h
    have hsq (e : ℤ) : ((2 : ℝ) ^ e) ^ 2 = 2 ^ (2 * e) := by rw [← zpow_natCast, ← zpow_mul, mul_comm]; rfl
    have hlo : (2 : ℝ) ^ ((num.log2 / 2 : ℕ) - 1 : ℤ) ≤ √num := by
      rw [Real.le_sqrt' (two_zpow_pos _), hsq]
      exact (two_zpow_le_iff.mpr (by omega)).trans (two_pow_log2_le h)
    have hhi : √num < (2 : ℝ) ^ ((num.log2 / 2 : ℕ) + 1 : ℤ) := by
      rw [Real.sqrt_lt' (by positivity), hsq]
      exact (lt_two_pow_log2 num).trans_le (two_zpow_le_iff.mpr (by omega))
    rw [Magnitude.log2Upper, Magnitude.val, add_sub_right_comm, add_right_comm, zpow_add₀ two_ne_zero,
      zpow_add₀ two_ne_zero]
    exact ⟨mul_le_mul_of_nonneg_right hlo (by positivity), mul_lt_mul_of_pos_right hhi (two_zpow_pos _)⟩

theorem Magnitude.ilog2_bounds {a : Magnitude} (h : a.positive = true) :
    2 ^ a.ilog2 ≤ a.val ∧ a.val < 2 ^ (a.ilog2 + 1) := by
  obtain ⟨hlo, hhi⟩ := Magnitude.log2Upper_bounds h
  have hpos := (Magnitude.onGrid_isPosition h a.log2Upper).le_fst_iff (gridPoint_strictMono _) (n := 1)
  rw [gridPoint, Nat.cast_one, one_mul] at hpos
  unfold Magnitude.ilog2
  split_ifs with hle
  · exact ⟨hpos.mp hle, hhi⟩
  · rw [sub_add_cancel]
    exact ⟨hlo, not_le.mp fun h => hle (hpos.mpr h)⟩

/-- `a.ilog2` is below `e` exactly for the magnitudes below `2^e`. -/
theorem Magnitude.ilog2_lt_iff {a : Magnitude} (h : a.positive = true) (e : ℤ) : a.ilog2 < e ↔ a.val < 2 ^ e := by
  obtain ⟨hlo, hhi⟩ := Magnitude.ilog2_bounds h
  constructor
  · exact fun hlt => hhi.trans_le (two_zpow_le_iff.mpr (by omega))
  · exact fun hlt => two_zpow_lt_iff.mp (hlo.trans_lt hlt)

/-! ### Rounding sees the value of a magnitude alone (40_numerics.md R82, R101) -/

theorem Magnitude.onGrid_congr {a b : Magnitude} (ha : a.positive = true) (hb : b.positive = true)
    (h : a.val = b.val) (t : ℤ) : a.onGrid t = b.onGrid t :=
  (Magnitude.onGrid_isPosition hb t).unique (gridPoint_strictMono t) (h ▸ Magnitude.onGrid_isPosition ha t)

theorem Magnitude.ilog2_congr {a b : Magnitude} (ha : a.positive = true) (hb : b.positive = true)
    (h : a.val = b.val) : a.ilog2 = b.ilog2 := by
  have hlt (e : ℤ) : a.ilog2 < e ↔ b.ilog2 < e := by rw [ilog2_lt_iff ha, ilog2_lt_iff hb, h]
  have h1 := (hlt (b.ilog2 + 1)).mpr (by omega)
  have h2 := (hlt (a.ilog2 + 1)).mp (by omega)
  omega

theorem roundMagnitude_congr {w : ℕ} {f : Format} {tin : Tininess} {m : RoundingMode} {sg : Bool} {a b : Magnitude}
    (ha : a.positive = true) (hb : b.positive = true) (h : a.val = b.val) :
    (roundMagnitude f tin m sg a : BitVec w × FlagSet) = roundMagnitude f tin m sg b := by
  have hlog := Magnitude.ilog2_congr ha hb h
  have hgrid := Magnitude.onGrid_congr ha hb h
  have hunbounded : unboundedGrid f a = unboundedGrid f b := by rw [unboundedGrid, unboundedGrid, hlog]
  have hresult : resultGrid f a = resultGrid f b := by rw [resultGrid, resultGrid, hunbounded, hlog]
  have htiny : isTiny f tin m sg a = isTiny f tin m sg b := by
    cases tin with
    | after => simp only [isTiny, hunbounded, hgrid]
    | before => simp only [isTiny, hlog]
  simp only [roundMagnitude, hunbounded, hresult, htiny, hgrid]

/-- The magnitude of a nonzero exact number. -/
def BinNum.magnitude (r : BinNum) : Magnitude := .ratio r.num.natAbs 1 r.exp

theorem BinNum.magnitude_positive {r : BinNum} (h : r.num ≠ 0) : r.magnitude.positive = true := by
  simp [BinNum.magnitude, Magnitude.positive, h, Nat.pos_iff_ne_zero]

theorem BinNum.val_magnitude (r : BinNum) : r.magnitude.val = |r.val| := by
  rw [r.abs_val, BinNum.magnitude, Magnitude.val, Nat.cast_one, div_one, Nat.cast_natAbs, Int.cast_abs]

theorem BinNum.signed_magnitude (r : BinNum) : signed (decide (r.num < 0)) r.magnitude.val = r.val := by
  rw [r.val_magnitude]
  by_cases h : r.num < 0
  · rw [decide_eq_true h, signed_true, abs_of_neg (r.val_neg_iff.mpr h), neg_neg]
  · rw [decide_eq_false h, signed_false, abs_of_nonneg (not_lt.mp fun hlt => h (r.val_neg_iff.mp hlt))]

theorem roundNum_eq {w : ℕ} (f : Format) (tin : Tininess) (m : RoundingMode) (r : BinNum) :
    (roundNum f tin m r : BitVec w × FlagSet) = roundMagnitude f tin m (decide (r.num < 0)) r.magnitude := rfl

/-- Two exact nonzero numbers of one value round alike. -/
theorem roundNum_congr {w : ℕ} {f : Format} {tin : Tininess} {m : RoundingMode} {r q : BinNum} (hr : r.num ≠ 0)
    (h : r.val = q.val) : (roundNum f tin m r : BitVec w × FlagSet) = roundNum f tin m q := by
  have hq : q.num ≠ 0 := by rwa [ne_eq, ← q.val_eq_zero_iff, ← h, r.val_eq_zero_iff]
  have hsign : decide (r.num < 0) = decide (q.num < 0) := by
    rw [decide_eq_decide, ← r.val_neg_iff, ← q.val_neg_iff, h]
  rw [roundNum_eq, roundNum_eq, hsign]
  refine roundMagnitude_congr (BinNum.magnitude_positive hr) (BinNum.magnitude_positive hq) ?_
  rw [r.val_magnitude, q.val_magnitude, h]

/-- Settles O48: the exponent and the position on every grid are those of the real. -/
theorem roundingSeesOnlyTheValue : Obligations.RoundingSeesOnlyTheValue := by
  intro w f tin m r q hr
  have hpos := BinNum.magnitude_positive hr
  refine ⟨fun h => roundNum_congr hr ((r.sameValue_iff q).mp h), rfl, ?_, ?_⟩
  · exact Bool.eq_iff_iff.mpr (by rw [q.le_iff, ← r.signed_magnitude]; exact leReal_iff hpos q _)
  · exact Bool.eq_iff_iff.mpr (by rw [r.le_iff, ← r.signed_magnitude]; exact realLe_iff hpos q _)

end Sys2Proof.Machine
end

section
/-! The patterns of a format, by their sign and their magnitude bits (40_numerics.md R74 to R76). -/

namespace Sys2Proof.Machine

/-! ### The two formats -/

/-- What the lemmas below use of the two formats: the width, room for two exponent and two significand bits, and an
exponent range wide enough that no square root is subnormal. -/
structure Format.Fits (f : Format) (w : ℕ) : Prop where
  width : w = f.expBits + f.fracBits + 1
  exp : 2 ≤ f.expBits
  frac : 2 ≤ f.fracBits
  range : f.fracBits + 2 ≤ 2 ^ (f.expBits - 1)

theorem isStandard.fits {f : Format} {w : ℕ} (h : isStandard f w) : f.Fits w := by
  rcases h with ⟨rfl, rfl⟩ | ⟨rfl, rfl⟩ <;> exact ⟨by decide, by decide, by decide, by decide⟩

/-- The magnitude bits of the infinities: those of finite patterns are below, those of NaNs above. -/
def Format.infBody (f : Format) : ℕ := f.expMax * 2 ^ f.fracBits

/-- The bits of a pattern below its sign, as a number. -/
def bodyOf {w : ℕ} (f : Format) (a : BitVec w) : ℕ := a.toNat % f.signWeight

theorem Format.infBody_add (f : Format) : f.infBody + 2 ^ f.fracBits = f.signWeight := by
  have hpos : 0 < 2 ^ f.expBits := Nat.two_pow_pos _
  rw [Format.infBody, Format.expMax, Format.signWeight, Nat.pow_add, ← Nat.succ_mul, Nat.succ_eq_add_one,
    Nat.sub_add_cancel hpos]

theorem Format.infBody_lt (f : Format) : f.infBody < f.signWeight := by
  have hpos : 0 < 2 ^ f.fracBits := Nat.two_pow_pos _
  have hadd := f.infBody_add
  omega

theorem Format.signWeight_pos (f : Format) : 0 < f.signWeight := Nat.two_pow_pos _

theorem bodyOf_lt {w : ℕ} (f : Format) (a : BitVec w) : bodyOf f a < f.signWeight := Nat.mod_lt _ f.signWeight_pos

namespace Format.Fits

variable {f : Format} {w : ℕ}

theorem two_pow_width (hf : f.Fits w) : 2 ^ w = f.signWeight + f.signWeight := by
  rw [hf.width, Format.signWeight, Nat.pow_succ, Nat.mul_two]

theorem four_le_step (hf : f.Fits w) : 4 ≤ 2 ^ f.fracBits := Nat.pow_le_pow_right (n := 2) (by omega) hf.frac

theorem step_even (hf : f.Fits w) : 2 ^ f.fracBits % 2 = 0 := by
  rw [← Nat.sub_add_cancel (show 1 ≤ f.fracBits by have := hf.frac; omega), Nat.pow_succ, Nat.mul_mod_left]

theorem infBody_even (hf : f.Fits w) : f.infBody % 2 = 0 := by
  rw [Format.infBody, Nat.mul_mod, hf.step_even, Nat.mul_zero, Nat.zero_mod]

/-- The least normal magnitude is finite. -/
theorem step_lt_infBody (hf : f.Fits w) : 2 ^ f.fracBits < f.infBody := by
  have h4 : 4 ≤ 2 ^ f.expBits := Nat.pow_le_pow_right (n := 2) (by omega) hf.exp
  have hstep := hf.four_le_step
  rw [Format.infBody, Format.expMax]
  nlinarith [Nat.sub_add_cancel (show 1 ≤ 2 ^ f.expBits by omega)]

/-! ### Sign and magnitude bits -/

theorem signBit_iff (hf : f.Fits w) (a : BitVec w) : signBit f a = true ↔ f.signWeight ≤ a.toNat := by
  have hlt := a.isLt
  rw [hf.two_pow_width] at hlt
  have hdiv : a.toNat / f.signWeight < 2 := (Nat.div_lt_iff_lt_mul f.signWeight_pos).mpr (by omega)
  rw [signBit, BitVec.getLsbD, Nat.testBit_eq_decide_div_mod_eq, decide_eq_true_iff]
  change a.toNat / f.signWeight % 2 = 1 ↔ _
  have hle : 1 ≤ a.toNat / f.signWeight ↔ f.signWeight ≤ a.toNat := by
    rw [Nat.le_div_iff_mul_le f.signWeight_pos, Nat.one_mul]
  rw [← hle]
  generalize a.toNat / f.signWeight = q at *
  omega

theorem toNat_eq (hf : f.Fits w) (a : BitVec w) :
    a.toNat = (if signBit f a then f.signWeight else 0) + bodyOf f a := by
  have hlt := a.isLt
  rw [hf.two_pow_width] at hlt
  have hs := hf.signBit_iff a
  unfold bodyOf
  split_ifs with h
  · rw [Nat.mod_eq_sub_mod (hs.mp h), Nat.mod_eq_of_lt (by omega), Nat.add_sub_cancel' (hs.mp h)]
  · rw [Nat.mod_eq_of_lt (not_le.mp fun hle => h (hs.mpr hle)), Nat.zero_add]

theorem toNat_packBits (hf : f.Fits w) (sg : Bool) {n : ℕ} (hn : n < f.signWeight) :
    (packBits f sg n : BitVec w).toNat = (if sg then f.signWeight else 0) + n := by
  rw [packBits, BitVec.toNat_ofNat, hf.two_pow_width]
  exact Nat.mod_eq_of_lt (by split_ifs <;> omega)

theorem signBit_packBits (hf : f.Fits w) (sg : Bool) {n : ℕ} (hn : n < f.signWeight) :
    signBit f (packBits f sg n : BitVec w) = sg := by
  rw [Bool.eq_iff_iff, hf.signBit_iff, hf.toNat_packBits sg hn]
  cases sg <;> simp [hn]

theorem bodyOf_packBits (hf : f.Fits w) (sg : Bool) {n : ℕ} (hn : n < f.signWeight) :
    bodyOf f (packBits f sg n : BitVec w) = n := by
  rw [bodyOf, hf.toNat_packBits sg hn]
  cases sg <;> simp [Nat.mod_eq_of_lt hn]

/-- A pattern is its sign and its magnitude bits. -/
theorem packBits_bodyOf (hf : f.Fits w) (a : BitVec w) : packBits f (signBit f a) (bodyOf f a) = a := by
  apply BitVec.eq_of_toNat_eq
  rw [hf.toNat_packBits _ (bodyOf_lt f a), ← hf.toNat_eq a]

theorem ext (hf : f.Fits w) {a b : BitVec w} (hs : signBit f a = signBit f b) (hb : bodyOf f a = bodyOf f b) :
    a = b := by
  rw [← hf.packBits_bodyOf a, ← hf.packBits_bodyOf b, hs, hb]

/-- The lowest bit of a pattern is the parity of its magnitude bits. -/
theorem getLsbD_zero_packBits (hf : f.Fits w) (sg : Bool) {n : ℕ} (hn : n < f.signWeight) :
    (packBits f sg n : BitVec w).getLsbD 0 = decide (n % 2 = 1) := by
  have heven : f.signWeight % 2 = 0 := by
    have h1 := f.infBody_add
    have h2 := hf.step_even
    have h3 := hf.infBody_even
    omega
  rw [BitVec.getLsbD, hf.toNat_packBits sg hn, Nat.testBit_zero, decide_eq_decide]
  cases sg
  · simp
  · simp only [if_true]
    omega

end Format.Fits

/-! ### Fields and classes -/

theorem expField_eq {w : ℕ} (f : Format) (a : BitVec w) : expField f a = bodyOf f a / 2 ^ f.fracBits := by
  rw [expField, bodyOf, Format.signWeight, Nat.add_comm, Nat.pow_add, Nat.mod_mul_right_div_self]

theorem fracField_eq {w : ℕ} (f : Format) (a : BitVec w) : fracField f a = bodyOf f a % 2 ^ f.fracBits := by
  rw [fracField, bodyOf, Format.signWeight, Nat.add_comm, Nat.pow_add, Nat.mod_mul_right_mod]

/-- The magnitude bits are the two fields. -/
theorem bodyOf_eq {w : ℕ} (f : Format) (a : BitVec w) :
    bodyOf f a = expField f a * 2 ^ f.fracBits + fracField f a := by
  rw [expField_eq, fracField_eq, Nat.div_add_mod']

theorem fracField_lt {w : ℕ} (f : Format) (a : BitVec w) : fracField f a < 2 ^ f.fracBits :=
  Nat.mod_lt _ (Nat.two_pow_pos _)

/-- The exponent field is all ones exactly from the infinity's magnitude bits on. -/
theorem expField_eq_expMax_iff {w : ℕ} (f : Format) (a : BitVec w) :
    expField f a = f.expMax ↔ f.infBody ≤ bodyOf f a := by
  have hle : expField f a ≤ f.expMax := Nat.le_sub_one_of_lt (Nat.mod_lt _ (Nat.two_pow_pos _))
  have hge : f.expMax ≤ expField f a ↔ f.infBody ≤ bodyOf f a := by
    rw [expField_eq, Nat.le_div_iff_mul_le (Nat.two_pow_pos _), Format.infBody]
  omega

theorem bodyOf_of_expField_eq {w : ℕ} {f : Format} {a : BitVec w} (h : expField f a = f.expMax) :
    bodyOf f a = f.infBody + fracField f a := by
  rw [bodyOf_eq, h, Format.infBody]

theorem isNaN_iff {w : ℕ} (f : Format) (a : BitVec w) : isNaN f a = true ↔ f.infBody < bodyOf f a := by
  rw [isNaN, Bool.and_eq_true, decide_eq_true_iff, decide_eq_true_iff]
  constructor
  · rintro ⟨he, hf⟩
    rw [bodyOf_of_expField_eq he]
    omega
  · intro h
    have he := (expField_eq_expMax_iff f a).mpr h.le
    rw [bodyOf_of_expField_eq he] at h
    exact ⟨he, by omega⟩

theorem isInf_iff {w : ℕ} (f : Format) (a : BitVec w) : isInf f a = true ↔ bodyOf f a = f.infBody := by
  rw [isInf, Bool.and_eq_true, decide_eq_true_iff, decide_eq_true_iff]
  constructor
  · rintro ⟨he, hf⟩
    rw [bodyOf_of_expField_eq he, hf, Nat.add_zero]
  · intro h
    have he := (expField_eq_expMax_iff f a).mpr h.ge
    rw [bodyOf_of_expField_eq he] at h
    exact ⟨he, by omega⟩

theorem isFinite_iff {w : ℕ} (f : Format) (a : BitVec w) : isFinite f a = true ↔ bodyOf f a < f.infBody := by
  rw [isFinite, Bool.and_eq_true, Bool.not_eq_true', Bool.not_eq_true', ← Bool.not_eq_true, ← Bool.not_eq_true,
    isNaN_iff, isInf_iff]
  omega

theorem expField_eq_zero_iff {w : ℕ} (f : Format) (a : BitVec w) : expField f a = 0 ↔ bodyOf f a < 2 ^ f.fracBits := by
  rw [expField_eq, Nat.div_eq_zero_iff_lt (Nat.two_pow_pos _)]

theorem isZero_iff {w : ℕ} (f : Format) (a : BitVec w) : isZero f a = true ↔ bodyOf f a = 0 := by
  have hpos : 0 < 2 ^ f.fracBits := Nat.two_pow_pos _
  rw [isZero, Bool.and_eq_true, decide_eq_true_iff, decide_eq_true_iff]
  constructor
  · rintro ⟨he, hf⟩
    rw [bodyOf_eq, he, hf, Nat.zero_mul]
  · intro h
    rw [expField_eq, fracField_eq, h, Nat.zero_div, Nat.zero_mod]
    exact ⟨rfl, rfl⟩

theorem isSubnormal_iff {w : ℕ} (f : Format) (a : BitVec w) :
    isSubnormal f a = true ↔ 0 < bodyOf f a ∧ bodyOf f a < 2 ^ f.fracBits := by
  rw [isSubnormal, Bool.and_eq_true, decide_eq_true_iff, decide_eq_true_iff, ← expField_eq_zero_iff]
  constructor
  · rintro ⟨he, hf⟩
    rw [bodyOf_eq, he]
    exact ⟨by omega, rfl⟩
  · rintro ⟨hpos, he⟩
    rw [bodyOf_eq, he] at hpos
    exact ⟨he, by omega⟩

theorem isSignaling_iff {w : ℕ} {f : Format} (hf : f.Fits w) (a : BitVec w) :
    isSignaling f a = true ↔ f.infBody < bodyOf f a ∧ bodyOf f a < f.infBody + 2 ^ (f.fracBits - 1) := by
  have hfrac := hf.frac
  have hbit : a.getLsbD (f.fracBits - 1) = (fracField f a).testBit (f.fracBits - 1) := by
    rw [fracField, Nat.testBit_mod_two_pow, decide_eq_true (by omega), Bool.true_and]
    rfl
  have hhigh : (fracField f a).testBit (f.fracBits - 1) = decide (2 ^ (f.fracBits - 1) ≤ fracField f a) := by
    have hlt := fracField_lt f a
    have hpos : 0 < 2 ^ (f.fracBits - 1) := Nat.two_pow_pos _
    rw [← Nat.sub_add_cancel (show 1 ≤ f.fracBits by omega), Nat.pow_succ] at hlt
    have hdiv : fracField f a / 2 ^ (f.fracBits - 1) < 2 := (Nat.div_lt_iff_lt_mul hpos).mpr (by omega)
    have hle : 1 ≤ fracField f a / 2 ^ (f.fracBits - 1) ↔ 2 ^ (f.fracBits - 1) ≤ fracField f a := by
      rw [Nat.le_div_iff_mul_le hpos, Nat.one_mul]
    rw [Nat.testBit_eq_decide_div_mod_eq, decide_eq_decide, ← hle]
    generalize fracField f a / 2 ^ (f.fracBits - 1) = q at *
    omega
  rw [isSignaling, Bool.and_eq_true, isNaN_iff, hbit, hhigh, Bool.not_eq_true', decide_eq_false_iff_not]
  refine and_congr_right fun h => ?_
  rw [bodyOf_of_expField_eq ((expField_eq_expMax_iff f a).mpr h.le)]
  omega

/-- A pattern that is no NaN is finite or an infinity. -/
theorem isFinite_or_isInf {w : ℕ} {f : Format} {a : BitVec w} (h : isNaN f a = false) :
    isFinite f a = true ∨ isInf f a = true := by
  rw [← Bool.not_eq_true, isNaN_iff] at h
  rw [isFinite_iff, isInf_iff]
  omega

/-! ### Values (40_numerics.md R75) -/

/-- The value of magnitude bits, for magnitude bits above the largest finite too, with unbounded exponent. -/
noncomputable def bodyValue (f : Format) (n : ℕ) : ℝ :=
  if n / 2 ^ f.fracBits = 0 then (n % 2 ^ f.fracBits : ℕ) * 2 ^ f.qmin
  else (2 ^ f.fracBits + n % 2 ^ f.fracBits : ℕ) * 2 ^ (f.qmin + ((n / 2 ^ f.fracBits : ℕ) - 1))

theorem bodyValue_bodyOf {w : ℕ} (f : Format) (a : BitVec w) :
    bodyValue f (bodyOf f a) = significand f a * 2 ^ unitExp f a := by
  unfold bodyValue significand unitExp
  rw [← expField_eq, ← fracField_eq]
  split_ifs <;> rfl

/-- The value of a pattern is that of its magnitude bits, with its sign. -/
theorem val_valueOf {w : ℕ} (f : Format) (a : BitVec w) :
    (valueOf f a).val = signed (signBit f a) (bodyValue f (bodyOf f a)) := by
  rw [bodyValue_bodyOf, valueOf, BinNum.val]
  cases signBit f a <;> simp

/-- Counted from the grid of spacing `2^qmin`, a step of the exponent field doubles the spacing. -/
theorem bodyValue_add (f : Format) {j k : ℕ} (hk : k ≤ 2 ^ (f.fracBits + 1)) (hj : 2 ^ f.fracBits ≤ k ∨ j = 0) :
    bodyValue f (j * 2 ^ f.fracBits + k) = k * 2 ^ (f.qmin + j) := by
  have hpos : 0 < 2 ^ f.fracBits := Nat.two_pow_pos _
  rw [Nat.pow_succ] at hk
  rw [bodyValue, Nat.add_comm, Nat.add_mul_div_right _ _ hpos, Nat.add_mul_mod_self_right]
  rcases Nat.lt_or_ge k (2 ^ f.fracBits) with hlt | hge
  · have hj0 : j = 0 := by omega
    rw [Nat.div_eq_of_lt hlt, Nat.mod_eq_of_lt hlt, hj0, if_pos rfl, Nat.cast_zero, add_zero]
  · rcases Nat.lt_or_ge k (2 ^ f.fracBits * 2) with hlt | hge2
    · have hdiv : k / 2 ^ f.fracBits = 1 :=
        (Nat.div_eq_iff hpos).mpr ⟨by omega, by omega⟩
      rw [Nat.mod_eq_sub_mod hge, Nat.mod_eq_of_lt (by omega), hdiv, if_neg (by omega), Nat.add_sub_cancel' hge]
      push_cast
      rw [add_sub_cancel_left]
    · have hk2 : k = 2 ^ f.fracBits * 2 := le_antisymm hk hge2
      rw [hk2, Nat.mul_mod_right, Nat.mul_div_cancel_left _ hpos, if_neg (by omega)]
      push_cast
      rw [show f.qmin + (2 + (j : ℤ) - 1) = f.qmin + j + 1 by ring, zpow_add_one₀ two_ne_zero]
      ring

/-- Every number is the magnitude bits of a point `k` of some grid `2^(qmin + j)`. -/
theorem exists_body_eq (f : Format) (n : ℕ) :
    ∃ j k, n = j * 2 ^ f.fracBits + k ∧ k < 2 ^ (f.fracBits + 1) ∧ (2 ^ f.fracBits ≤ k ∨ j = 0) := by
  have hpos : 0 < 2 ^ f.fracBits := Nat.two_pow_pos _
  have hmod := Nat.mod_lt n hpos
  have hdiv := Nat.div_add_mod' n (2 ^ f.fracBits)
  rw [Nat.pow_succ]
  rcases hq : n / 2 ^ f.fracBits with _ | j
  · rw [hq] at hdiv
    exact ⟨0, n, by omega, by omega, .inr rfl⟩
  · rw [hq, Nat.succ_mul] at hdiv
    exact ⟨j, 2 ^ f.fracBits + n % 2 ^ f.fracBits, by omega, by omega, .inl (by omega)⟩

theorem bodyValue_strictMono (f : Format) : StrictMono (bodyValue f) := by
  refine strictMono_nat_of_lt_succ fun n => ?_
  obtain ⟨j, k, rfl, hk, hj⟩ := exists_body_eq f n
  rw [Nat.add_assoc, bodyValue_add f hk.le hj, bodyValue_add f hk (hj.imp_left fun h => by omega)]
  exact mul_lt_mul_of_pos_right (by exact_mod_cast Nat.lt_succ_self k) (two_zpow_pos _)

@[simp] theorem bodyValue_zero (f : Format) : bodyValue f 0 = 0 := by simp [bodyValue]

theorem bodyValue_nonneg (f : Format) (n : ℕ) : 0 ≤ bodyValue f n := by
  rw [← bodyValue_zero f]
  exact (bodyValue_strictMono f).monotone (Nat.zero_le n)

/-- The values of a subnormal's and the least normal's magnitude bits. -/
theorem bodyValue_of_le (f : Format) {k : ℕ} (hk : k ≤ 2 ^ f.fracBits) : bodyValue f k = k * 2 ^ f.qmin := by
  have h := bodyValue_add f (j := 0) (k := k) (by rw [Nat.pow_succ]; omega) (.inr rfl)
  simpa using h

/-- The least normal magnitude is `2^emin`. -/
theorem bodyValue_step (f : Format) : bodyValue f (2 ^ f.fracBits) = 2 ^ f.emin := by
  rw [bodyValue_of_le f le_rfl, Format.qmin, Nat.cast_pow, Nat.cast_ofNat, ← zpow_natCast, ← zpow_add₀ two_ne_zero]
  congr 1
  ring

end Sys2Proof.Machine
end

section
/-! What rounding delivers, by the position of the exact magnitude among the magnitudes of the format (40_numerics.md
R79, R82 to R85). -/

namespace Sys2Proof.Machine

/-! ### The ends of the range -/

theorem Format.expMax_cast {f : Format} {w : ℕ} (hf : f.Fits w) : (f.expMax : ℤ) = 2 * f.emax + 1 := by
  have hexp := hf.exp
  have hpos : 0 < 2 ^ f.expBits := Nat.two_pow_pos _
  have hsplit : 2 ^ f.expBits = 2 * 2 ^ (f.expBits - 1) := by
    rw [← Nat.pow_succ', Nat.succ_eq_add_one, Nat.sub_add_cancel (by omega)]
  rw [Format.expMax, Format.emax, Nat.cast_sub hpos, hsplit]
  push_cast
  ring

theorem Format.frac_lt_emax {f : Format} {w : ℕ} (hf : f.Fits w) : (f.fracBits : ℤ) < f.emax := by
  have hrange : (f.fracBits + 2 : ℤ) ≤ 2 ^ (f.expBits - 1) := by exact_mod_cast hf.range
  rw [Format.emax]
  omega

theorem Format.emin_le_zero {f : Format} {w : ℕ} (hf : f.Fits w) : f.emin < 0 := by
  have h := Format.frac_lt_emax hf
  have hfrac := hf.frac
  rw [Format.emin]
  omega

/-- The magnitude bits of the infinity stand where the next power of two would. -/
theorem bodyValue_infBody {f : Format} {w : ℕ} (hf : f.Fits w) : bodyValue f f.infBody = 2 ^ (f.emax + 1) := by
  have hcast := Format.expMax_cast hf
  have hmax := Format.frac_lt_emax hf
  have hbody : f.infBody = (f.expMax - 1) * 2 ^ f.fracBits + 2 ^ f.fracBits := by
    rw [Format.infBody, ← Nat.succ_mul, Nat.succ_eq_add_one, Nat.sub_add_cancel (by omega)]
  rw [hbody, bodyValue_add f (Nat.pow_le_pow_right (n := 2) (by omega) (by omega)) (.inl le_rfl), Nat.cast_pow,
    Nat.cast_ofNat, ← zpow_natCast, ← zpow_add₀ two_ne_zero, Format.qmin, Format.emin, Nat.cast_sub (by omega), hcast]
  congr 1
  push_cast
  ring

/-- The largest finite magnitude (40_numerics.md R74). -/
theorem bodyValue_maxFinite {f : Format} {w : ℕ} (hf : f.Fits w) :
    bodyValue f (f.infBody - 1) = (2 ^ f.precision - 1) * 2 ^ (f.emax - f.fracBits) := by
  have hcast := Format.expMax_cast hf
  have hmax := Format.frac_lt_emax hf
  have hpos : 0 < 2 ^ f.fracBits := Nat.two_pow_pos _
  have hbody : f.infBody - 1 = (f.expMax - 2) * 2 ^ f.fracBits + (2 ^ (f.fracBits + 1) - 1) := by
    have hsub : f.expMax = f.expMax - 2 + 2 := by omega
    have hmul : f.infBody = (f.expMax - 2) * 2 ^ f.fracBits + 2 * 2 ^ f.fracBits := by
      rw [Format.infBody, ← Nat.add_mul, ← hsub]
    rw [hmul, Nat.pow_succ]
    omega
  rw [hbody, bodyValue_add f (by omega) (.inl (by rw [Nat.pow_succ]; omega)), Nat.cast_sub (Nat.two_pow_pos _),
    Format.qmin, Format.emin, Nat.cast_sub (by omega), hcast, Format.precision]
  push_cast
  congr 2
  ring

/-! ### The place of a magnitude in a format -/

/-- Where a magnitude lies among the magnitude bits of a format, counted without an upper end. -/
def Magnitude.place (f : Format) (a : Magnitude) : ℕ × Rest :=
  ((resultGrid f a - f.qmin).toNat * 2 ^ f.fracBits + (a.onGrid (resultGrid f a)).1, (a.onGrid (resultGrid f a)).2)

theorem resultGrid_eq (f : Format) (a : Magnitude) :
    resultGrid f a = f.qmin + ((resultGrid f a - f.qmin).toNat : ℤ) := by
  have h : f.qmin ≤ resultGrid f a := by
    unfold resultGrid unboundedGrid Format.qmin
    split_ifs <;> omega
  omega

theorem two_zpow_add_nat (k : ℕ) (t : ℤ) : ((2 ^ k : ℕ) : ℝ) * 2 ^ t = 2 ^ (t + k) := by
  rw [Nat.cast_pow, Nat.cast_ofNat, ← zpow_natCast, ← zpow_add₀ two_ne_zero, add_comm]

/-- The point of its grid that a magnitude lies at has at most `p` bits, and exactly `p` off the lowest grid. -/
theorem onGrid_resultGrid_bounds {a : Magnitude} (h : a.positive = true) (f : Format) :
    (a.onGrid (resultGrid f a)).1 < 2 ^ (f.fracBits + 1) ∧
      (2 ^ f.fracBits ≤ (a.onGrid (resultGrid f a)).1 ∨ resultGrid f a = f.qmin) := by
  obtain ⟨hlo, hhi⟩ := Magnitude.ilog2_bounds h
  have hle {n : ℕ} := (Magnitude.onGrid_isPosition h (resultGrid f a)).le_fst_iff (gridPoint_strictMono _) (n := n)
  constructor
  · rw [← not_le, hle, gridPoint, two_zpow_add_nat, not_le]
    refine hhi.trans_le (two_zpow_le_iff.mpr ?_)
    unfold resultGrid unboundedGrid Format.qmin
    split_ifs <;> push_cast <;> omega
  · by_cases hmin : a.ilog2 < f.emin
    · exact .inr (if_pos hmin)
    · left
      rw [hle, gridPoint, two_zpow_add_nat, resultGrid, if_neg hmin, unboundedGrid, sub_add_cancel]
      exact hlo

/-- The values of the magnitude bits at the place of a magnitude are points of its grid. -/
theorem bodyValue_place {a : Magnitude} (h : a.positive = true) (f : Format) {k : ℕ}
    (hk : (a.onGrid (resultGrid f a)).1 ≤ k) (hk1 : k ≤ (a.onGrid (resultGrid f a)).1 + 1) :
    bodyValue f ((resultGrid f a - f.qmin).toNat * 2 ^ f.fracBits + k) = gridPoint (resultGrid f a) k := by
  obtain ⟨hlt, hge⟩ := onGrid_resultGrid_bounds h f
  rw [bodyValue_add f (by omega) (hge.imp (fun hle => hle.trans hk) fun he => by omega), ← resultGrid_eq, gridPoint]

theorem Magnitude.place_isPosition {a : Magnitude} (h : a.positive = true) (f : Format) :
    IsPosition (bodyValue f) a.val (a.place f) := by
  have hpos := Magnitude.onGrid_isPosition h (resultGrid f a)
  rw [IsPosition, Magnitude.place, Nat.add_assoc, bodyValue_place h f le_rfl (Nat.le_succ _),
    bodyValue_place h f (Nat.le_succ _) le_rfl]
  exact hpos

/-- What a mode picks at the place is what it picks on the grid. -/
theorem pick_place {f : Format} {w : ℕ} (hf : f.Fits w) (m : RoundingMode) (sg : Bool) (a : Magnitude) :
    pick m sg (a.place f) =
      (resultGrid f a - f.qmin).toNat * 2 ^ f.fracBits + pick m sg (a.onGrid (resultGrid f a)) :=
  pick_add_even (by rw [Nat.mul_mod, hf.step_even, Nat.mul_zero, Nat.zero_mod]) m sg _ _

/-! ### Overflow and tininess by the place -/

theorem scaledLt_iff (k₁ : ℕ) (e₁ : ℤ) (k₂ : ℕ) (e₂ : ℤ) :
    scaledLt k₁ e₁ k₂ e₂ = true ↔ gridPoint e₁ k₁ < gridPoint e₂ k₂ := by
  rw [scaledLt, BinNum.lt_iff]
  rfl

/-- A value rounded with unbounded exponent stays at or below the next power of two. -/
theorem gridPoint_pick_unbounded_le {a : Magnitude} (h : a.positive = true) (f : Format) (m : RoundingMode)
    (sg : Bool) :
    gridPoint (unboundedGrid f a) (pick m sg (a.onGrid (unboundedGrid f a))) ≤ 2 ^ (a.ilog2 + 1) := by
  have hpow : gridPoint (unboundedGrid f a) (2 ^ (f.fracBits + 1)) = 2 ^ (a.ilog2 + 1) := by
    rw [gridPoint, two_zpow_add_nat, unboundedGrid]
    congr 1
    push_cast
    ring
  rw [← hpow]
  refine (gridPoint_strictMono _).monotone
    ((Magnitude.onGrid_isPosition h _).pick_le (gridPoint_strictMono _) ?_)
  rw [hpow]
  exact (Magnitude.ilog2_bounds h).2.le

/-- The overflow test of R83 is on the magnitude bits picked. -/
theorem overflows_iff {f : Format} {w : ℕ} (hf : f.Fits w) {a : Magnitude} (h : a.positive = true) (m : RoundingMode)
    (sg : Bool) :
    overflows f (pick m sg (a.onGrid (unboundedGrid f a))) (unboundedGrid f a) = true ↔
      f.infBody ≤ pick m sg (a.place f) := by
  have hplace := Magnitude.place_isPosition h f
  have hmaxPoint : gridPoint (f.emax - f.fracBits) (2 ^ f.precision - 1) = bodyValue f (f.infBody - 1) := by
    rw [bodyValue_maxFinite hf, gridPoint, Nat.cast_sub (Nat.two_pow_pos _)]
    push_cast
    rfl
  have hstep := hf.step_lt_infBody
  rw [overflows, scaledLt_iff, hmaxPoint]
  by_cases hmin : a.ilog2 < f.emin
  · have hval := (Magnitude.ilog2_lt_iff h f.emin).mp hmin
    refine iff_of_false (not_lt.mpr ?_) (not_le.mpr ?_)
    · calc _ ≤ (2 : ℝ) ^ (a.ilog2 + 1) := gridPoint_pick_unbounded_le h f m sg
        _ ≤ 2 ^ f.emin := two_zpow_le_iff.mpr hmin
        _ = bodyValue f (2 ^ f.fracBits) := (bodyValue_step f).symm
        _ ≤ bodyValue f (f.infBody - 1) := (bodyValue_strictMono f).monotone (by omega)
    · refine lt_of_le_of_lt (hplace.pick_le (bodyValue_strictMono f) ?_) hstep
      rw [bodyValue_step]
      exact hval.le
  · have hgrid : resultGrid f a = unboundedGrid f a := if_neg hmin
    have hpoint : gridPoint (unboundedGrid f a) (pick m sg (a.onGrid (unboundedGrid f a))) =
        bodyValue f (pick m sg (a.place f)) := by
      rw [pick_place hf, ← hgrid]
      refine (bodyValue_place h f ?_ ?_).symm <;>
        rcases pick_cases m sg (a.onGrid (resultGrid f a)) with hp | ⟨-, hp⟩ <;> omega
    have hinf : 0 < f.infBody := Nat.zero_lt_of_lt hstep
    rw [hpoint, (bodyValue_strictMono f).lt_iff_lt]
    omega

/-- The grid whose points reach `2^emin` after `2^p` steps decides tininess after rounding. -/
theorem isTiny_after_iff {a : Magnitude} (h : a.positive = true) (f : Format) (m : RoundingMode) (sg : Bool) :
    isTiny f .after m sg a = true ↔ pick m sg (a.onGrid (f.emin - f.precision)) < 2 ^ f.precision := by
  obtain ⟨hlo, hhi⟩ := Magnitude.ilog2_bounds h
  have hone : gridPoint f.emin 1 = 2 ^ f.emin := by rw [gridPoint, Nat.cast_one, one_mul]
  have hpow (k : ℕ) : gridPoint (f.emin - f.precision) (2 ^ k) = 2 ^ (f.emin - f.precision + k) :=
    two_zpow_add_nat k _
  have hpos := Magnitude.onGrid_isPosition h (f.emin - f.precision)
  have hprec : (f.precision : ℤ) = f.fracBits + 1 := by rw [Format.precision]; push_cast; rfl
  rw [isTiny, scaledLt_iff, hone]
  rcases lt_trichotomy a.ilog2 (f.emin - 1) with hlt | heq | hgt
  · refine iff_of_true ?_ ?_
    · exact (gridPoint_pick_unbounded_le h f m sg).trans_lt (two_zpow_lt_iff.mpr (by omega))
    · refine lt_of_le_of_lt (hpos.pick_le (gridPoint_strictMono _) (n := 2 ^ f.fracBits) ?_)
        (Nat.pow_lt_pow_right (by omega) (Nat.lt_succ_self _))
      rw [hpow]
      exact hhi.le.trans (two_zpow_le_iff.mpr (by omega))
  · have hgrid : unboundedGrid f a = f.emin - f.precision := by rw [unboundedGrid]; omega
    have hmin : (2 : ℝ) ^ f.emin = gridPoint (f.emin - f.precision) (2 ^ f.precision) := by
      rw [hpow, sub_add_cancel]
    rw [hgrid, hmin, (gridPoint_strictMono _).lt_iff_lt]
  · refine iff_of_false (not_lt.mpr ?_) (not_lt.mpr ?_)
    · have hgrid : gridPoint (unboundedGrid f a) (2 ^ f.fracBits) = 2 ^ a.ilog2 := by
        rw [gridPoint, two_zpow_add_nat, unboundedGrid, sub_add_cancel]
      calc (2 : ℝ) ^ f.emin ≤ 2 ^ a.ilog2 := two_zpow_le_iff.mpr (by omega)
        _ = _ := hgrid.symm
        _ ≤ _ := (gridPoint_strictMono _).monotone
          ((Magnitude.onGrid_isPosition h _).le_pick (gridPoint_strictMono _) (hgrid.trans_le hlo))
    · refine hpos.le_pick (gridPoint_strictMono _) ?_
      rw [hpow, sub_add_cancel]
      exact (two_zpow_le_iff.mpr (by omega)).trans hlo

theorem not_leReal_iff {a : Magnitude} (h : a.positive = true) (q : BinNum) :
    (!leReal q false a) = true ↔ a.val < q.val := by
  rw [Bool.not_eq_true', ← Bool.not_eq_true, leReal_iff h, signed_false, not_le]

/-- The bounds on the exact real say by mode what is picked on the grid that decides tininess. -/
theorem tinyReal_after_iff {a : Magnitude} (h : a.positive = true) (f : Format) (m : RoundingMode) (sg : Bool) :
    tinyReal f .after m sg a = true ↔ pick m sg (a.onGrid (f.emin - f.precision)) < 2 ^ f.precision := by
  have hpos := Magnitude.onGrid_isPosition h (f.emin - f.precision)
  have hg := gridPoint_strictMono (f.emin - f.precision)
  have hp1 : 1 ≤ 2 ^ f.precision := Nat.one_le_two_pow
  have htop : gridPoint (f.emin - f.precision) (2 ^ f.precision) = 2 ^ f.emin := by
    rw [gridPoint, two_zpow_add_nat, sub_add_cancel]
  have hemin : (BinNum.mk 1 f.emin).val = gridPoint (f.emin - f.precision) (2 ^ f.precision) := by
    rw [htop, BinNum.val, Int.cast_one, one_mul]
  have hbelow : (BinNum.mk (2 ^ f.precision - 1) (f.emin - f.precision)).val =
      gridPoint (f.emin - f.precision) (2 ^ f.precision - 1) := by
    rw [BinNum.val, gridPoint, Nat.cast_sub hp1]
    push_cast
    rfl
  have hmid : 2 * (BinNum.mk (2 ^ (f.precision + 1) - 1) (f.emin - f.precision - 1)).val =
      gridPoint (f.emin - f.precision) (2 ^ f.precision - 1) +
        gridPoint (f.emin - f.precision) (2 ^ f.precision - 1 + 1) := by
    rw [BinNum.val, gridPoint, gridPoint, Nat.sub_add_cancel hp1, Nat.cast_sub hp1, zpow_sub_one₀ two_ne_zero]
    push_cast
    ring
  -- toward zero: below `2^emin`
  have down (hm : towardZero m sg = true) : (!leReal ⟨1, f.emin⟩ false a) = true ↔
      pick m sg (a.onGrid (f.emin - f.precision)) < 2 ^ f.precision := by
    rw [not_leReal_iff h, hemin, ← not_le, ← not_le, hpos.le_pick_towardZero_iff hg hm]
  -- away from zero: at most the neighbour of `2^emin`
  have up (hm : awayFromZero m sg = true) : realLe false a ⟨2 ^ f.precision - 1, f.emin - f.precision⟩ = true ↔
      pick m sg (a.onGrid (f.emin - f.precision)) < 2 ^ f.precision := by
    rw [realLe_iff h, signed_false, hbelow, ← hpos.pick_awayFromZero_le_iff hg hm]
    omega
  -- to nearest: below the midpoint of the two, whose lower one is odd
  have near (hm : m = .rne ∨ m = .rmm) :
      (!leReal ⟨2 ^ (f.precision + 1) - 1, f.emin - f.precision - 1⟩ false a) = true ↔
        pick m sg (a.onGrid (f.emin - f.precision)) < 2 ^ f.precision := by
    have hodd : (2 ^ f.precision - 1) % 2 = 1 := by
      have heven : 2 ^ f.precision % 2 = 0 := by rw [Format.precision, Nat.pow_succ, Nat.mul_mod_left]
      omega
    have hlt : 2 ^ f.precision - 1 < pick m sg (a.onGrid (f.emin - f.precision)) ↔
        gridPoint (f.emin - f.precision) (2 ^ f.precision - 1) +
          gridPoint (f.emin - f.precision) (2 ^ f.precision - 1 + 1) ≤ 2 * a.val := by
      rcases hm with rfl | rfl
      · exact hpos.lt_pick_rne_iff_of_odd hg hodd
      · exact hpos.lt_pick_rmm_iff hg
    rw [not_leReal_iff h, ← mul_lt_mul_iff_right₀ (two_pos (α := ℝ)), hmid, ← not_le, ← hlt]
    omega
  cases m with
  | rtz => exact down rfl
  | rdn =>
    cases sg with
    | false => exact down rfl
    | true => exact up rfl
  | rup =>
    cases sg with
    | false => exact up rfl
    | true => exact down rfl
  | rne => exact near (.inl rfl)
  | rmm => exact near (.inr rfl)

/-- The model's tininess is the condition on the exact real. -/
theorem isTiny_eq_tinyReal {a : Magnitude} (h : a.positive = true) (f : Format) (tin : Tininess) (m : RoundingMode)
    (sg : Bool) : isTiny f tin m sg a = tinyReal f tin m sg a := by
  rw [Bool.eq_iff_iff]
  cases tin with
  | after => rw [isTiny_after_iff h, tinyReal_after_iff h]
  | before =>
    rw [isTiny, tinyReal, decide_eq_true_iff, Magnitude.ilog2_lt_iff h, not_leReal_iff h, BinNum.val, Int.cast_one,
      one_mul]

/-! ### What rounding delivers -/

/-- The greatest magnitude bits a mode delivers: the largest finite ones or the infinity's (40_numerics.md R83). -/
def overflowBody (f : Format) (m : RoundingMode) (sg : Bool) : ℕ :=
  if towardZero m sg then f.infBody - 1 else f.infBody

theorem overflowResult_eq {w : ℕ} (f : Format) (m : RoundingMode) (sg : Bool) :
    (overflowResult f m sg : BitVec w) = packBits f sg (overflowBody f m sg) := by
  cases m <;> cases sg <;> rfl

/-- The magnitude bits that rounding delivers. -/
def roundedBody (f : Format) (m : RoundingMode) (sg : Bool) (a : Magnitude) : ℕ :=
  min (pick m sg (a.place f)) (overflowBody f m sg)

/-- The flags that rounding raises (40_numerics.md R83 to R85). -/
def roundedFlags (f : Format) (tin : Tininess) (m : RoundingMode) (sg : Bool) (a : Magnitude) : FlagSet :=
  if f.infBody ≤ pick m sg (a.place f) then flagOF ||| flagNX
  else flagIf ((a.place f).2 != .exact) flagNX ||| flagIf (tinyReal f tin m sg a && (a.place f).2 != .exact) flagUF

theorem overflowBody_le (f : Format) (m : RoundingMode) (sg : Bool) : overflowBody f m sg ≤ f.infBody := by
  unfold overflowBody
  split_ifs <;> omega

theorem le_overflowBody (f : Format) (m : RoundingMode) (sg : Bool) : f.infBody - 1 ≤ overflowBody f m sg := by
  unfold overflowBody
  split_ifs <;> omega

theorem roundedBody_of_lt {f : Format} {m : RoundingMode} {sg : Bool} {a : Magnitude}
    (h : pick m sg (a.place f) < f.infBody) : roundedBody f m sg a = pick m sg (a.place f) :=
  min_eq_left ((Nat.le_sub_one_of_lt h).trans (le_overflowBody f m sg))

theorem roundedBody_of_le {f : Format} {m : RoundingMode} {sg : Bool} {a : Magnitude}
    (h : f.infBody ≤ pick m sg (a.place f)) : roundedBody f m sg a = overflowBody f m sg :=
  min_eq_right ((overflowBody_le f m sg).trans h)

theorem roundedBody_le (f : Format) (m : RoundingMode) (sg : Bool) (a : Magnitude) :
    roundedBody f m sg a ≤ f.infBody := (min_le_right _ _).trans (overflowBody_le f m sg)

theorem roundedBody_lt (f : Format) (m : RoundingMode) (sg : Bool) (a : Magnitude) :
    roundedBody f m sg a < f.signWeight := (roundedBody_le f m sg a).trans_lt f.infBody_lt

/-- Rounding delivers what the mode picks at the place of the magnitude, cut off at the upper end. -/
theorem roundMagnitude_eq {f : Format} {w : ℕ} (hf : f.Fits w) {a : Magnitude} (h : a.positive = true)
    (tin : Tininess) (m : RoundingMode) (sg : Bool) :
    (roundMagnitude f tin m sg a : BitVec w × FlagSet) =
      (packBits f sg (roundedBody f m sg a), roundedFlags f tin m sg a) := by
  unfold roundMagnitude roundedFlags
  by_cases hover : f.infBody ≤ pick m sg (a.place f)
  · rw [if_pos ((overflows_iff hf h m sg).mpr hover), if_pos hover, roundedBody_of_le hover, overflowResult_eq]
  · rw [if_neg (fun ho => hover ((overflows_iff hf h m sg).mp ho)), if_neg hover, roundedBody_of_lt (not_le.mp hover),
      pick_place hf, isTiny_eq_tinyReal h]
    rfl

end Sys2Proof.Machine
end

section
/-! The order of patterns, comparison, minimum and maximum (40_numerics.md R94, R95). -/

namespace Sys2Proof.Machine

/-! ### The place of a pattern in the order (40_numerics.md R95) -/

theorem orderKey_eq {w : ℕ} (f : Format) (a : BitVec w) :
    orderKey f a = if signBit f a then -(bodyOf f a : ℤ) else (bodyOf f a : ℤ) := rfl

theorem orderKey_packBits {f : Format} {w : ℕ} (hf : f.Fits w) (sg : Bool) {n : ℕ} (hn : n < f.signWeight) :
    orderKey f (packBits f sg n : BitVec w) = if sg then -(n : ℤ) else (n : ℤ) := by
  rw [orderKey_eq, hf.signBit_packBits sg hn, hf.bodyOf_packBits sg hn]

theorem natAbs_orderKey {w : ℕ} (f : Format) (a : BitVec w) : (orderKey f a).natAbs = bodyOf f a := by
  rw [orderKey_eq]
  split_ifs
  · rw [Int.natAbs_neg, Int.natAbs_natCast]
  · rw [Int.natAbs_natCast]

/-- The value at place `z` of the order. -/
noncomputable def keyValue (f : Format) (z : ℤ) : ℝ := if z < 0 then -bodyValue f z.natAbs else bodyValue f z.natAbs

theorem keyValue_natCast (f : Format) (n : ℕ) : keyValue f n = bodyValue f n := by
  rw [keyValue, if_neg (by omega), Int.natAbs_natCast]

theorem keyValue_neg (f : Format) (z : ℤ) : keyValue f (-z) = -keyValue f z := by
  unfold keyValue
  rw [Int.natAbs_neg]
  rcases lt_trichotomy z 0 with h | rfl | h
  · rw [if_neg (by omega), if_pos h, neg_neg]
  · simp
  · rw [if_pos (by omega), if_neg (by omega)]

theorem keyValue_strictMono (f : Format) : StrictMono (keyValue f) := by
  have hg := bodyValue_strictMono f
  have hpos {n : ℕ} (hn : 0 < n) : 0 < bodyValue f n := by simpa using hg hn
  intro y z hyz
  unfold keyValue
  split_ifs with hy hz hz
  · exact neg_lt_neg (hg (by omega))
  · linarith [hpos (show 0 < y.natAbs by omega), bodyValue_nonneg f z.natAbs]
  · omega
  · exact hg (by omega)

theorem val_valueOf_eq_keyValue {w : ℕ} (f : Format) (a : BitVec w) :
    (valueOf f a).val = keyValue f (orderKey f a) := by
  rw [val_valueOf, orderKey_eq]
  cases signBit f a <;> simp [keyValue_neg, keyValue_natCast]

/-! ### Comparison (40_numerics.md R95) -/

theorem bodyOf_le_infBody {w : ℕ} {f : Format} {a : BitVec w} (h : isNaN f a = false) : bodyOf f a ≤ f.infBody := by
  rw [← Bool.not_eq_true, isNaN_iff] at h
  omega

theorem orderKey_of_isInf {w : ℕ} {f : Format} {a : BitVec w} (h : isInf f a = true) :
    orderKey f a = if signBit f a then -(f.infBody : ℤ) else (f.infBody : ℤ) := by
  rw [orderKey_eq, (isInf_iff f a).mp h]

theorem abs_orderKey_lt_of_not_isInf {w : ℕ} {f : Format} {a : BitVec w} (hn : isNaN f a = false)
    (h : isInf f a = false) : -(f.infBody : ℤ) < orderKey f a ∧ orderKey f a < f.infBody := by
  have hle := bodyOf_le_infBody hn
  rw [← Bool.not_eq_true, isInf_iff] at h
  rw [orderKey_eq]
  split_ifs <;> omega

/-- The order of non-NaN patterns is that of their places. -/
theorem numLt_eq {f : Format} {w : ℕ} (hf : f.Fits w) {a b : BitVec w} (ha : isNaN f a = false)
    (hb : isNaN f b = false) : numLt f a b = decide (orderKey f a < orderKey f b) := by
  have hinf : 0 < f.infBody := Nat.zero_lt_of_lt hf.step_lt_infBody
  unfold numLt
  rcases hia : isInf f a with _ | _
  · have hka := abs_orderKey_lt_of_not_isInf ha hia
    rcases hib : isInf f b with _ | _
    · rw [if_neg (by decide), if_neg (by decide), Bool.eq_iff_iff, BinNum.lt_iff, val_valueOf_eq_keyValue,
        val_valueOf_eq_keyValue, (keyValue_strictMono f).lt_iff_lt, decide_eq_true_iff]
    · rw [if_neg (by decide), if_pos rfl, orderKey_of_isInf hib]
      cases signBit f b <;> simp <;> omega
  · rw [if_pos rfl, orderKey_of_isInf hia]
    rcases hib : isInf f b with _ | _
    · have hkb := abs_orderKey_lt_of_not_isInf hb hib
      cases signBit f a <;> simp <;> omega
    · rw [orderKey_of_isInf hib]
      cases signBit f a <;> cases signBit f b <;> simp
      all_goals omega

theorem numEq_eq {f : Format} {w : ℕ} (hf : f.Fits w) {a b : BitVec w} (ha : isNaN f a = false)
    (hb : isNaN f b = false) : numEq f a b = decide (orderKey f a = orderKey f b) := by
  have hinf : 0 < f.infBody := Nat.zero_lt_of_lt hf.step_lt_infBody
  unfold numEq
  rcases hia : isInf f a with _ | _
  · have hka := abs_orderKey_lt_of_not_isInf ha hia
    rcases hib : isInf f b with _ | _
    · rw [if_neg (by decide), Bool.eq_iff_iff, BinNum.beq_iff, val_valueOf_eq_keyValue, val_valueOf_eq_keyValue,
        (keyValue_strictMono f).injective.eq_iff, decide_eq_true_iff]
    · rw [orderKey_of_isInf hib]
      cases signBit f b <;> simp <;> omega
  · rw [orderKey_of_isInf hia]
    rcases hib : isInf f b with _ | _
    · have hkb := abs_orderKey_lt_of_not_isInf hb hib
      cases signBit f a <;> simp <;> omega
    · rw [orderKey_of_isInf hib]
      cases signBit f a <;> cases signBit f b <;> simp <;> omega

/-- Settles O52: both tests of a comparison are tests on the places in the order. -/
theorem comparisonsFollowTheOrder : Obligations.ComparisonsFollowTheOrder := by
  intro w f hstd a b
  have hf := hstd.fits
  constructor
  · intro ha hb
    have hnan : (isNaN f a || isNaN f b) = false := by rw [ha, hb]; rfl
    simp only [ltF, eqF, leF, hnan, Bool.false_eq_true, if_false, numLt_eq hf ha hb, numEq_eq hf ha hb, true_and]
    rw [Prod.mk.injEq, and_iff_left rfl, ← Bool.decide_or, decide_eq_decide]
    exact le_iff_lt_or_eq.symm
  · intro h
    have hnan : (isNaN f a || isNaN f b) = true := by rwa [Bool.or_eq_true]
    simp only [ltF, eqF, leF, hnan, if_true, flagIf, true_and]

/-! ### Minimum and maximum (40_numerics.md R94) -/

theorem isSignaling_of_not_isNaN {w : ℕ} {f : Format} {a : BitVec w} (h : isNaN f a = false) :
    isSignaling f a = false := by
  rw [isSignaling, h, Bool.false_and]

theorem isNaN_of_isZero {w : ℕ} {f : Format} {a : BitVec w} (h : isZero f a = true) : isNaN f a = false := by
  rw [isZero_iff] at h
  rw [← Bool.not_eq_true, isNaN_iff]
  omega

/-- A zero is known by its sign. -/
theorem eq_zeroOf {f : Format} {w : ℕ} (hf : f.Fits w) {a : BitVec w} (h : isZero f a = true) :
    a = zeroOf f (signBit f a) := by
  rw [zeroOf, ← (isZero_iff f a).mp h, hf.packBits_bodyOf]

theorem orderKey_of_isZero {w : ℕ} {f : Format} {a : BitVec w} (h : isZero f a = true) : orderKey f a = 0 :=
  Int.natAbs_eq_zero.mp ((natAbs_orderKey f a).trans ((isZero_iff f a).mp h))

theorem Format.Fits.signBit_zeroOf {f : Format} {w : ℕ} (hf : f.Fits w) (sg : Bool) :
    signBit f (zeroOf f sg : BitVec w) = sg := hf.signBit_packBits sg f.signWeight_pos

theorem Format.Fits.isZero_zeroOf {f : Format} {w : ℕ} (hf : f.Fits w) {sg : Bool} :
    isZero f (zeroOf f sg : BitVec w) = true := (isZero_iff f _).mpr (hf.bodyOf_packBits sg f.signWeight_pos)

/-- Two zeros that differ have opposite signs. -/
theorem zeros_ne_iff {f : Format} {w : ℕ} (hf : f.Fits w) {a b : BitVec w} (ha : isZero f a = true)
    (hb : isZero f b = true) : (signBit f a != signBit f b) = true ↔ a ≠ b := by
  rw [bne_iff_ne]
  refine ⟨fun hs he => hs (by rw [he]), fun hne hs => hne ?_⟩
  rw [eq_zeroOf hf ha, eq_zeroOf hf hb, hs]

theorem minMaxF_of_not_isNaN {w : ℕ} {f : Format} {a b : BitVec w} (ha : isNaN f a = false) (hb : isNaN f b = false)
    (env : NumEnv w) (mx : Bool) :
    minMaxF f env mx a b =
      (if isZero f a && isZero f b && (signBit f a != signBit f b) then zeroChoice f env mx a b
        else if numLt f a b then if mx then b else a
        else if numLt f b a then if mx then a else b
        else a, noFlags) := by
  simp only [minMaxF, isSignaling_of_not_isNaN ha, isSignaling_of_not_isNaN hb, ha, hb, Bool.or_self, Bool.and_self,
    Bool.false_and, Bool.false_eq_true, if_false, flagIf]
  split_ifs <;> rfl

/-- Under `number`, the minimum or maximum is an operand that bounds both. -/
theorem minMaxF_number_bounds {f : Format} {w : ℕ} (hf : f.Fits w) {env : NumEnv w} (hmode : env.minMax = .number)
    {a b : BitVec w} (ha : isNaN f a = false) (hb : isNaN f b = false) (mx : Bool) :
    ∃ v, minMaxF f env mx a b = (v, noFlags) ∧ (v = a ∨ v = b) ∧
      (if mx then orderKey f a ≤ orderKey f v ∧ orderKey f b ≤ orderKey f v
        else orderKey f v ≤ orderKey f a ∧ orderKey f v ≤ orderKey f b) ∧
      (isZero f a = true → isZero f b = true → a ≠ b → v = zeroOf f (!mx)) := by
  refine ⟨_, minMaxF_of_not_isNaN ha hb env mx, ?_⟩
  rw [numLt_eq hf ha hb, numLt_eq hf hb ha]
  by_cases hz : (isZero f a && isZero f b && (signBit f a != signBit f b)) = true
  · rw [if_pos hz]
    simp only [Bool.and_eq_true, bne_iff_ne] at hz
    obtain ⟨⟨hza, hzb⟩, hsigns⟩ := hz
    have hka := orderKey_of_isZero hza
    have hkb := orderKey_of_isZero hzb
    have hchoice : zeroChoice f env mx a b = if signBit f a != mx then a else b := by rw [zeroChoice, hmode]
    have hzero : zeroChoice f env mx a b = zeroOf f (!mx) := by
      rw [hchoice, eq_zeroOf hf hza, eq_zeroOf hf hzb]
      cases hs : signBit f a <;> cases ht : signBit f b <;> cases mx <;> simp [hs, ht, hf.signBit_zeroOf] at hsigns ⊢
    refine ⟨?_, ?_, fun _ _ _ => hzero⟩
    · rw [hchoice]
      exact ite_eq_or_eq ..
    · rw [hzero, orderKey_of_isZero hf.isZero_zeroOf, hka, hkb]
      cases mx <;> simp
  · rw [if_neg hz]
    refine ⟨?_, ?_, fun hza hzb hne => absurd ?_ hz⟩
    · cases mx <;> split_ifs <;> simp
    · simp only [decide_eq_true_eq]
      cases mx <;> split_ifs <;> simp <;> omega
    · rw [hza, hzb, (zeros_ne_iff hf hza hzb).mpr hne]
      rfl

theorem minMaxF_one_nan {w : ℕ} {f : Format} {env : NumEnv w} (hmode : env.minMax = .number) {a b : BitVec w}
    (ha : isNaN f a = true) (hb : isNaN f b = false) (mx : Bool) :
    minMaxF f env mx a b = (b, if isSignaling f a then flagNV else noFlags) ∧
      minMaxF f env mx b a = (b, if isSignaling f a then flagNV else noFlags) := by
  simp [minMaxF, ha, hb, isSignaling_of_not_isNaN hb, hmode, flagIf]

/-- Settles O53: by the number of NaN operands, and under `minnum2008` by what differs from `number`. -/
theorem minMaxBoundTheirOperands : Obligations.MinMaxBoundTheirOperands := by
  intro w f hstd env a b
  have hf := hstd.fits
  refine ⟨fun hmode => ⟨?_, fun ha hb mx => minMaxF_one_nan hmode ha hb mx, fun ha hb mx => ?_⟩,
    fun hmode mx => ⟨fun hsig => ?_, fun hza hzb hne => ?_, fun hsa hsb hz => ?_⟩⟩
  · rintro ha hb lo hi rfl rfl
    obtain ⟨lo, hlo, hlo_operand, hlo_bound, hlo_zero⟩ := minMaxF_number_bounds hf hmode ha hb false
    obtain ⟨hi, hhi, hhi_operand, hhi_bound, hhi_zero⟩ := minMaxF_number_bounds hf hmode ha hb true
    rw [hlo, hhi]
    exact ⟨rfl, rfl, hlo_operand, hhi_operand, hlo_bound.1, hlo_bound.2, hhi_bound.1, hhi_bound.2,
      fun hza hzb hne => ⟨hlo_zero hza hzb hne, hhi_zero hza hzb hne⟩⟩
  · simp [minMaxF, ha, hb, flagIf]
  · have hany : (isSignaling f a || isSignaling f b) = true := by rwa [Bool.or_eq_true]
    simp [minMaxF, hany, hmode, invalidResult, flagIf]
  · have hany : (isZero f a && isZero f b && (signBit f a != signBit f b)) = true := by
      rw [hza, hzb, (zeros_ne_iff hf hza hzb).mpr hne]
      rfl
    rw [minMaxF_of_not_isNaN (isNaN_of_isZero hza) (isNaN_of_isZero hzb), if_pos hany, zeroChoice, hmode]
  · have hany : (isZero f a && isZero f b && (signBit f a != signBit f b)) = false := by
      rw [← Bool.not_eq_true, Bool.and_eq_true, Bool.and_eq_true]
      rintro ⟨⟨hza, hzb⟩, hs⟩
      exact hz ⟨hza, hzb, (zeros_ne_iff hf hza hzb).mp hs⟩
    simp only [minMaxF, hsa, hsb, hany, Bool.or_self, Bool.false_and, Bool.false_eq_true, if_false]

end Sys2Proof.Machine
end

section
/-! Rounding against the exact real: overflow, exactness, tininess, direction and nearness (40_numerics.md R79, R82 to
R86). -/

namespace Sys2Proof.Machine

/-! ### Overflow (40_numerics.md R83) -/

/-- Settles O43: the table of R83, mode by mode, as the patterns of the two formats. -/
theorem overflowFollowsTheTable : Obligations.OverflowFollowsTheTable := by
  constructor
  · intro tin m sg a h
    rw [roundMagnitude, if_pos h]
    cases m <;> cases sg <;> rfl
  · intro tin m sg a h
    rw [roundMagnitude, if_pos h]
    cases m <;> cases sg <;> rfl

/-! ### The flags, bit by bit (40_numerics.md R83 to R85) -/

section Flags

variable {f : Format} {tin : Tininess} {m : RoundingMode} {sg : Bool} {a : Magnitude}

theorem roundedFlags_nx : (roundedFlags f tin m sg a).getLsbD 0 = true ↔
    f.infBody ≤ pick m sg (a.place f) ∨ (a.place f).2 ≠ .exact := by
  unfold roundedFlags
  split_ifs with h
  · exact iff_of_true rfl (.inl h)
  · cases hr : (a.place f).2 <;> cases tinyReal f tin m sg a <;> simp [h] <;> decide

theorem roundedFlags_uf : (roundedFlags f tin m sg a).getLsbD 1 = true ↔
    ¬f.infBody ≤ pick m sg (a.place f) ∧ tinyReal f tin m sg a = true ∧ (a.place f).2 ≠ .exact := by
  unfold roundedFlags
  split_ifs with h
  · exact iff_of_false (by decide) fun hc => hc.1 h
  · cases hr : (a.place f).2 <;> cases tinyReal f tin m sg a <;> simp [h] <;> decide

theorem roundedFlags_of :
    (roundedFlags f tin m sg a).getLsbD 2 = true ↔ f.infBody ≤ pick m sg (a.place f) := by
  unfold roundedFlags
  split_ifs with h
  · exact iff_of_true rfl h
  · cases hr : (a.place f).2 <;> cases tinyReal f tin m sg a <;> simp [h] <;> decide

end Flags

/-- Rounding raises neither DZ nor NV, whatever the magnitude (40_numerics.md R87). -/
theorem roundMagnitude_no_dz_nv {w : ℕ} (f : Format) (tin : Tininess) (m : RoundingMode) (sg : Bool) (a : Magnitude) :
    (roundMagnitude f tin m sg a : BitVec w × FlagSet).2.getLsbD 3 = false ∧
      (roundMagnitude f tin m sg a : BitVec w × FlagSet).2.getLsbD 4 = false := by
  have hflags (c d : Bool) : (flagIf c flagNX ||| flagIf d flagUF).getLsbD 3 = false ∧
      (flagIf c flagNX ||| flagIf d flagUF).getLsbD 4 = false := by
    cases c <;> cases d <;> decide
  unfold roundMagnitude
  split_ifs
  · change (flagOF ||| flagNX).getLsbD 3 = false ∧ (flagOF ||| flagNX).getLsbD 4 = false
    decide
  · exact hflags _ _

/-! ### Exactness (40_numerics.md R85) -/

section Exact

variable {f : Format} {w : ℕ} {a : Magnitude}

/-- A magnitude that is a finite one of the format is its own place, and every mode picks it. -/
theorem place_of_val_eq (h : a.positive = true) {n : ℕ} (hn : a.val = bodyValue f n) : a.place f = (n, .exact) :=
  IsPosition.unique (bodyValue_strictMono f) (pos := (n, .exact)) hn (Magnitude.place_isPosition h f)

/-- Rounding delivers a finite magnitude of the format unchanged, with no flag. -/
theorem roundMagnitude_of_val_eq (hf : f.Fits w) (h : a.positive = true) {n : ℕ} (hn : a.val = bodyValue f n)
    (hfin : n < f.infBody) (tin : Tininess) (m : RoundingMode) (sg : Bool) :
    (roundMagnitude f tin m sg a : BitVec w × FlagSet) = (packBits f sg n, noFlags) := by
  have hplace := place_of_val_eq h hn
  have hpick : pick m sg (a.place f) = n := by rw [hplace]; rfl
  rw [roundMagnitude_eq hf h, roundedBody_of_lt (hpick.trans_lt hfin), hpick, roundedFlags, hpick,
    if_neg (not_le.mpr hfin), hplace]
  cases tinyReal f tin m sg a <;> simp [flagIf, noFlags]

theorem val_packBits (hf : f.Fits w) (sg : Bool) {n : ℕ} (hn : n < f.signWeight) :
    (valueOf f (packBits f sg n : BitVec w)).val = signed sg (bodyValue f n) := by
  rw [val_valueOf, hf.signBit_packBits sg hn, hf.bodyOf_packBits sg hn]

theorem signed_inj {sg : Bool} {x y : ℝ} : signed sg x = signed sg y ↔ x = y := by
  cases sg
  · exact Iff.rfl
  · exact neg_inj

/-- The delivered pattern is finite exactly when its magnitude bits are below the infinity's. -/
theorem isFinite_packBits_iff (hf : f.Fits w) (sg : Bool) {n : ℕ} (hn : n < f.signWeight) :
    isFinite f (packBits f sg n : BitVec w) = true ↔ n < f.infBody := by
  rw [isFinite_iff, hf.bodyOf_packBits sg hn]

theorem isInf_packBits_iff (hf : f.Fits w) (sg : Bool) {n : ℕ} (hn : n < f.signWeight) :
    isInf f (packBits f sg n : BitVec w) = true ↔ n = f.infBody := by
  rw [isInf_iff, hf.bodyOf_packBits sg hn]

theorem isNaN_packBits (hf : f.Fits w) (sg : Bool) {n : ℕ} (hn : n ≤ f.infBody) :
    isNaN f (packBits f sg n : BitVec w) = false := by
  rw [← Bool.not_eq_true, isNaN_iff, hf.bodyOf_packBits sg (hn.trans_lt f.infBody_lt), not_lt]
  exact hn

/-- NX is not raised exactly when what is delivered is the real. -/
theorem roundedFlags_nx_false_iff (h : a.positive = true) {tin : Tininess} {m : RoundingMode} {sg : Bool} :
    (roundedFlags f tin m sg a).getLsbD 0 = false ↔
      roundedBody f m sg a < f.infBody ∧ bodyValue f (roundedBody f m sg a) = a.val := by
  have hg := bodyValue_strictMono f
  have hpos := Magnitude.place_isPosition h f
  rw [← Bool.not_eq_true, roundedFlags_nx, not_or, not_le, not_not]
  constructor
  · rintro ⟨hlt, hexact⟩
    have hpick : pick m sg (a.place f) = (a.place f).1 := pick_of_exact hexact
    rw [roundedBody_of_lt hlt, hpick]
    exact ⟨hpick ▸ hlt, ((hpos.exact_iff hg).mp hexact).symm⟩
  · rintro ⟨hlt, hval⟩
    have hplace := place_of_val_eq h hval.symm
    have hpick : pick m sg (a.place f) = roundedBody f m sg a := by rw [hplace]; rfl
    exact ⟨hpick.trans_lt hlt, by rw [hplace]⟩

/-- Settles O51: NX is not raised exactly at a magnitude of the format, and OF is raised with NX only. -/
theorem inexactExactlyWhenTheResultDiffers : Obligations.InexactExactlyWhenTheResultDiffers := by
  rintro w f hstd tin m sg a h p rfl
  have hf := hstd.fits
  have hbody := roundedBody_lt f m sg a
  obtain ⟨hdz, hnv⟩ := roundMagnitude_no_dz_nv (w := w) f tin m sg a
  rw [roundMagnitude_eq hf h] at hdz hnv ⊢
  refine ⟨?_, fun hof => ?_, hdz, hnv⟩
  · rw [roundedFlags_nx_false_iff h, isFinite_packBits_iff hf sg hbody, leReal_iff h, realLe_iff h,
      val_packBits hf sg hbody, ← le_antisymm_iff, signed_inj]
  · exact roundedFlags_nx.mpr (.inl (roundedFlags_of.mp hof))

/-- A finite pattern that is not zero has a magnitude of the format as its value, and its own sign. -/
theorem valueOf_magnitude {a : BitVec w} (hz : isZero f a = false) :
    (valueOf f a).num ≠ 0 ∧ (valueOf f a).magnitude.val = bodyValue f (bodyOf f a) ∧
      decide ((valueOf f a).num < 0) = signBit f a := by
  have hpos : 0 < bodyValue f (bodyOf f a) := by
    rw [← Bool.not_eq_true, isZero_iff] at hz
    have h := bodyValue_strictMono f (Nat.pos_of_ne_zero hz)
    rwa [bodyValue_zero] at h
  rw [BinNum.val_magnitude, Bool.eq_iff_iff, decide_eq_true_iff, ← BinNum.val_neg_iff, ne_eq, ← BinNum.val_eq_zero_iff,
    val_valueOf]
  cases signBit f a
  · simp [hpos.ne', abs_of_pos hpos, hpos.le]
  · simp [hpos.ne', abs_of_pos hpos, hpos]

/-- Rounding a number with the value of a finite nonzero pattern gives the pattern. -/
theorem roundNum_of_val_eq (hf : f.Fits w) {a : BitVec w} {tin : Tininess} {m : RoundingMode}
    (ha : isFinite f a = true) (hz : isZero f a = false)
    {r : BinNum} (hr : r.val = (valueOf f a).val) : roundNum f tin m r = (a, noFlags) := by
  obtain ⟨hnum, hval, hsign⟩ := valueOf_magnitude hz
  rw [← roundNum_congr hnum hr.symm, roundNum_eq, hsign,
    roundMagnitude_of_val_eq hf (BinNum.magnitude_positive hnum) hval ((isFinite_iff f a).mp ha),
    hf.packBits_bodyOf]

/-- Settles O47: the value of the pattern is a magnitude of the format, and packing its bits gives the pattern. -/
theorem representableValuesRoundToThemselves : Obligations.RepresentableValuesRoundToThemselves :=
  fun _ _ hstd _ _ _ ha hz => roundNum_of_val_eq hstd.fits ha hz rfl

end Exact

/-! ### Underflow (40_numerics.md R84) -/

/-- A magnitude that is tiny either way is below `2^emin`. -/
theorem val_lt_of_tinyReal {f : Format} {tin : Tininess} {m : RoundingMode} {sg : Bool} {a : Magnitude}
    (h : a.positive = true) (ht : tinyReal f tin m sg a = true) : a.val < 2 ^ f.emin := by
  cases tin with
  | before =>
    rw [tinyReal, not_leReal_iff h, BinNum.val, Int.cast_one, one_mul] at ht
    exact ht
  | after =>
    rw [tinyReal_after_iff h] at ht
    by_contra hle
    have htop : gridPoint (f.emin - f.precision) (2 ^ f.precision) = 2 ^ f.emin := by
      rw [gridPoint, two_zpow_add_nat, sub_add_cancel]
    refine absurd ht (not_lt.mpr ?_)
    exact (Magnitude.onGrid_isPosition h _).le_pick (gridPoint_strictMono _) (htop.trans_le (not_lt.mp hle))

theorem tinyReal_before_iff {f : Format} {m : RoundingMode} {sg : Bool} {a : Magnitude} (h : a.positive = true) :
    tinyReal f .before m sg a = true ↔ a.val < 2 ^ f.emin := by
  rw [tinyReal, not_leReal_iff h, BinNum.val, Int.cast_one, one_mul]

/-- A magnitude below `2^emin` does not overflow. -/
theorem pick_place_lt_infBody {f : Format} {w : ℕ} (hf : f.Fits w) {a : Magnitude} (h : a.positive = true)
    (hlt : a.val < 2 ^ f.emin) (m : RoundingMode) (sg : Bool) : pick m sg (a.place f) < f.infBody := by
  rw [← bodyValue_step] at hlt
  exact ((Magnitude.place_isPosition h f).pick_le (bodyValue_strictMono f) hlt.le).trans_lt hf.step_lt_infBody

/-- The flags other than UF do not depend on `TININESS`. -/
theorem roundedFlags_tininess {f : Format} {m : RoundingMode} {sg : Bool} {a : Magnitude} (tin tin' : Tininess) {k : ℕ}
    (hk : k ≠ 1) : (roundedFlags f tin m sg a).getLsbD k = (roundedFlags f tin' m sg a).getLsbD k := by
  have huf (c : Bool) : (flagIf c flagUF).getLsbD k = false := by
    cases c
    · exact BitVec.getLsbD_zero
    · change (BitVec.twoPow 5 1).getLsbD k = false
      simp [BitVec.getLsbD_twoPow, hk.symm]
  unfold roundedFlags
  split_ifs
  · rfl
  · rw [BitVec.getLsbD_or, BitVec.getLsbD_or, huf, huf]

/-- Settles O44: what is tiny does not overflow, and `TININESS` decides UF alone. -/
theorem underflowFollowsTininess : Obligations.UnderflowFollowsTininess := by
  intro w f hstd m sg a h
  have hf := hstd.fits
  constructor
  · rintro tin p rfl
    rw [roundMagnitude_eq hf h, roundedFlags_uf, roundedFlags_nx]
    constructor
    · exact fun ⟨_, ht, hr⟩ => ⟨ht, .inr hr⟩
    · rintro ⟨ht, hr⟩
      have hfin := not_le.mpr (pick_place_lt_infBody hf h (val_lt_of_tinyReal h ht) m sg)
      exact ⟨hfin, ht, hr.resolve_left hfin⟩
  · rintro p q rfl rfl
    rw [roundMagnitude_eq hf h, roundMagnitude_eq hf h]
    refine ⟨rfl, fun k hk => roundedFlags_tininess _ _ hk, fun huf => ?_⟩
    obtain ⟨hfin, ht, hr⟩ := roundedFlags_uf.mp huf
    exact roundedFlags_uf.mpr ⟨hfin, (tinyReal_before_iff h).mpr (val_lt_of_tinyReal h ht), hr⟩

end Sys2Proof.Machine
end

section
/-! The directed modes bracket the real and the nearest modes pick the nearer end of the bracket (40_numerics.md R79,
R82, R83). -/

namespace Sys2Proof.Machine

section Directed

variable {f : Format} {w : ℕ} {m : RoundingMode} {sg : Bool} {a : Magnitude}

/-! ### The delivered magnitude of the directed modes -/

theorem infBody_pos (hf : f.Fits w) : 0 < f.infBody := Nat.zero_lt_of_lt hf.step_lt_infBody

theorem roundedBody_towardZero_lt (hf : f.Fits w) (hm : towardZero m sg = true) : roundedBody f m sg a < f.infBody := by
  have hinf := infBody_pos hf
  have hle := min_le_right (pick m sg (a.place f)) (overflowBody f m sg)
  rw [overflowBody, if_pos hm] at hle
  rw [roundedBody, overflowBody, if_pos hm]
  omega

theorem bodyValue_roundedBody_towardZero_le (h : a.positive = true) (hm : towardZero m sg = true) :
    bodyValue f (roundedBody f m sg a) ≤ a.val := by
  have hpos := Magnitude.place_isPosition h f
  rw [← hpos.le_pick_towardZero_iff (bodyValue_strictMono f) hm]
  exact min_le_left _ _

/-- Toward zero, nothing finite that is at most the magnitude is above what is delivered. -/
theorem le_roundedBody_towardZero (h : a.positive = true) (hm : towardZero m sg = true) {z : ℤ}
    (hz : z < f.infBody) (hle : keyValue f z ≤ a.val) : z ≤ roundedBody f m sg a := by
  rcases lt_or_ge z 0 with hneg | hnonneg
  · omega
  obtain ⟨n, rfl⟩ := Int.eq_ofNat_of_zero_le hnonneg
  rw [keyValue_natCast] at hle
  have hpick := ((Magnitude.place_isPosition h f).le_pick_towardZero_iff (bodyValue_strictMono f) hm).mpr hle
  have hcap := le_overflowBody f m sg
  have hmin : n ≤ roundedBody f m sg a := le_min hpick (by omega)
  exact_mod_cast hmin

/-- Away from zero, what is delivered is not below the magnitude, where it is finite. -/
theorem le_bodyValue_roundedBody_awayFromZero (h : a.positive = true) (hm : awayFromZero m sg = true)
    (hfin : roundedBody f m sg a < f.infBody) : a.val ≤ bodyValue f (roundedBody f m sg a) := by
  have hlt : pick m sg (a.place f) < f.infBody := by
    by_contra hge
    rw [roundedBody_of_le (not_lt.mp hge), overflowBody, if_neg] at hfin
    · exact lt_irrefl _ hfin
    · cases m <;> cases sg <;> simp [awayFromZero] at hm <;> decide
  rw [roundedBody_of_lt hlt,
    ← (Magnitude.place_isPosition h f).pick_awayFromZero_le_iff (bodyValue_strictMono f) hm]

/-- No mode delivers more than something that is at least the magnitude. -/
theorem roundedBody_le_of_le (h : a.positive = true) {z : ℤ} (hle : a.val ≤ keyValue f z) :
    (roundedBody f m sg a : ℤ) ≤ z := by
  have hz : 0 < z := by
    rw [← (keyValue_strictMono f).lt_iff_lt]
    have hzero : keyValue f 0 = 0 := by simp [keyValue]
    rw [hzero]
    exact (Magnitude.val_pos h).trans_le hle
  obtain ⟨n, rfl⟩ := Int.eq_ofNat_of_zero_le hz.le
  rw [keyValue_natCast] at hle
  have hpick := (Magnitude.place_isPosition h f).pick_le (m := m) (sg := sg) (bodyValue_strictMono f) hle
  have hmin : roundedBody f m sg a ≤ n := (min_le_left _ _).trans hpick
  exact_mod_cast hmin

/-! ### The delivered pattern of the directed modes, on either side of zero -/

/-- `d` is the greatest pattern at or below the real `x`, in the order with the infinities (40_numerics.md R79). -/
structure IsGreatestBelow (f : Format) (d : BitVec w) (x : ℝ) : Prop where
  notNaN : isNaN f d = false
  sign : isInf f d = true → signBit f d = true
  le : isFinite f d = true → (valueOf f d).val ≤ x
  greatest : ∀ q : BitVec w, isFinite f q = true → (valueOf f q).val ≤ x → numLt f d q = false

/-- `u` is the least pattern at or above the real `x`, in the order with the infinities (40_numerics.md R79). -/
structure IsLeastAbove (f : Format) (u : BitVec w) (x : ℝ) : Prop where
  notNaN : isNaN f u = false
  sign : isInf f u = true → signBit f u = false
  le : isFinite f u = true → x ≤ (valueOf f u).val
  least : ∀ q : BitVec w, isFinite f q = true → x ≤ (valueOf f q).val → numLt f q u = false

theorem isNaN_of_isFinite {q : BitVec w} (hq : isFinite f q = true) : isNaN f q = false := by
  rw [isFinite, Bool.and_eq_true, Bool.not_eq_true'] at hq
  exact hq.1

theorem abs_orderKey_lt_of_isFinite {q : BitVec w} (hq : isFinite f q = true) :
    -(f.infBody : ℤ) < orderKey f q ∧ orderKey f q < f.infBody := by
  rw [isFinite, Bool.and_eq_true, Bool.not_eq_true', Bool.not_eq_true'] at hq
  exact abs_orderKey_lt_of_not_isInf hq.1 hq.2

theorem numLt_eq_false_iff (hf : f.Fits w) {p q : BitVec w} (hp : isNaN f p = false) (hq : isNaN f q = false) :
    numLt f p q = false ↔ orderKey f q ≤ orderKey f p := by
  rw [numLt_eq hf hp hq, decide_eq_false_iff_not, not_lt]

theorem isNaN_rounded (hf : f.Fits w) (m : RoundingMode) (sg : Bool) (a : Magnitude) :
    isNaN f (packBits f sg (roundedBody f m sg a) : BitVec w) = false :=
  isNaN_packBits hf sg (roundedBody_le f m sg a)

theorem rdn_isGreatestBelow (hf : f.Fits w) (h : a.positive = true) (sg : Bool) :
    IsGreatestBelow f (packBits f sg (roundedBody f .rdn sg a) : BitVec w) (signed sg a.val) := by
  have hlt := roundedBody_lt f .rdn sg a
  refine ⟨isNaN_rounded hf .rdn sg a, fun hinf => ?_, fun hfin => ?_, fun q hq hle => ?_⟩
  · rw [isInf_packBits_iff hf sg hlt] at hinf
    rw [hf.signBit_packBits sg hlt]
    cases sg with
    | true => rfl
    | false => exact absurd hinf (roundedBody_towardZero_lt hf rfl).ne
  · rw [isFinite_packBits_iff hf sg hlt] at hfin
    rw [val_packBits hf sg hlt]
    cases sg with
    | true => exact neg_le_neg (le_bodyValue_roundedBody_awayFromZero h rfl hfin)
    | false => exact bodyValue_roundedBody_towardZero_le h rfl
  · rw [numLt_eq_false_iff hf (isNaN_rounded hf .rdn sg a) (isNaN_of_isFinite hq), orderKey_packBits hf sg hlt]
    rw [val_valueOf_eq_keyValue] at hle
    cases sg with
    | true =>
      have hneg : a.val ≤ keyValue f (-orderKey f q) := by
        rw [keyValue_neg]
        exact le_neg_of_le_neg hle
      exact le_neg_of_le_neg (roundedBody_le_of_le h hneg)
    | false => exact le_roundedBody_towardZero h rfl (abs_orderKey_lt_of_isFinite hq).2 hle

theorem rup_isLeastAbove (hf : f.Fits w) (h : a.positive = true) (sg : Bool) :
    IsLeastAbove f (packBits f sg (roundedBody f .rup sg a) : BitVec w) (signed sg a.val) := by
  have hlt := roundedBody_lt f .rup sg a
  refine ⟨isNaN_rounded hf .rup sg a, fun hinf => ?_, fun hfin => ?_, fun q hq hle => ?_⟩
  · rw [isInf_packBits_iff hf sg hlt] at hinf
    rw [hf.signBit_packBits sg hlt]
    cases sg with
    | false => rfl
    | true => exact absurd hinf (roundedBody_towardZero_lt hf rfl).ne
  · rw [isFinite_packBits_iff hf sg hlt] at hfin
    rw [val_packBits hf sg hlt]
    cases sg with
    | false => exact le_bodyValue_roundedBody_awayFromZero h rfl hfin
    | true => exact neg_le_neg (bodyValue_roundedBody_towardZero_le h rfl)
  · rw [numLt_eq_false_iff hf (isNaN_of_isFinite hq) (isNaN_rounded hf .rup sg a), orderKey_packBits hf sg hlt]
    rw [val_valueOf_eq_keyValue] at hle
    cases sg with
    | false => exact roundedBody_le_of_le h hle
    | true =>
      have hneg : keyValue f (-orderKey f q) ≤ a.val := by
        rw [keyValue_neg]
        exact neg_le_of_neg_le hle
      have hbound := (abs_orderKey_lt_of_isFinite hq).1
      exact neg_le_of_neg_le (le_roundedBody_towardZero h rfl (by omega) hneg)

/-- Toward zero is `rdn` for positive reals and `rup` for negative ones, flags included. -/
theorem roundMagnitude_rtz (hf : f.Fits w) (h : a.positive = true) (tin : Tininess) (sg : Bool) :
    (roundMagnitude f tin .rtz sg a : BitVec w × FlagSet) =
      if sg then roundMagnitude f tin .rup sg a else roundMagnitude f tin .rdn sg a := by
  have htiny (m : RoundingMode) (hm : towardZero m sg = true) :
      tinyReal f tin .rtz sg a = tinyReal f tin m sg a := by
    cases tin <;> cases m <;> cases sg <;> trivial
  have heq (m : RoundingMode) (hm : towardZero m sg = true) :
      (roundMagnitude f tin .rtz sg a : BitVec w × FlagSet) = roundMagnitude f tin m sg a := by
    have hpick : pick .rtz sg (a.place f) = pick m sg (a.place f) := by
      rw [pick_of_towardZero hm, pick_of_towardZero rfl]
    have hcap : overflowBody f .rtz sg = overflowBody f m sg := by
      have hrtz : towardZero .rtz sg = true := rfl
      rw [overflowBody, overflowBody, hrtz, hm]
    simp only [roundMagnitude_eq hf h, roundedBody, roundedFlags, hpick, htiny m hm, hcap]
  cases sg with
  | true => exact heq .rup rfl
  | false => exact heq .rdn rfl

/-- Settles O49: `rdn` and `rup` deliver the ends of the bracket on either side of zero. -/
theorem directedRoundingIsTight : Obligations.DirectedRoundingIsTight := by
  rintro w f hstd tin sg a h d u rfl rfl
  have hf := hstd.fits
  rw [roundMagnitude_rtz hf h, roundMagnitude_eq hf h, roundMagnitude_eq hf h]
  have hd := rdn_isGreatestBelow hf h sg
  have hu := rup_isLeastAbove hf h sg
  simp only [leReal_iff h, realLe_iff h]
  exact ⟨⟨hd.notNaN, hd.sign, hd.le, hd.greatest⟩, ⟨hu.notNaN, hu.sign, hu.le, hu.least⟩, trivial⟩

end Directed

section Nearest

variable {f : Format} {w : ℕ} {sg : Bool} {a : Magnitude}

/-! ### The nearest modes between the directed ones (40_numerics.md R79, R83) -/

/-- What the modes toward zero and away from zero deliver, by the place of the magnitude. -/
theorem roundedBody_directed {t u : RoundingMode} (ht : towardZero t sg = true) (hu : awayFromZero u sg = true) :
    roundedBody f t sg a = min (a.place f).1 (f.infBody - 1) ∧
      roundedBody f u sg a = min (if (a.place f).2 = .exact then (a.place f).1 else (a.place f).1 + 1) f.infBody := by
  have hcap : overflowBody f u sg = f.infBody := by
    rw [overflowBody, if_neg]
    cases u <;> cases sg <;> trivial
  refine ⟨by rw [roundedBody, pick_of_towardZero ht, overflowBody, if_pos ht], ?_⟩
  rw [roundedBody, hcap]
  split_ifs with hr
  · rw [pick_of_exact hr]
  · rw [pick_of_awayFromZero hu hr]

theorem roundedBody_nearest {m : RoundingMode} (hm : m = .rne ∨ m = .rmm) :
    roundedBody f m sg a = min (pick m sg (a.place f)) f.infBody := by
  rcases hm with rfl | rfl <;> rfl

/-- Rounding to nearest delivers one of the two directed results. -/
theorem roundedBody_nearest_mem (hf : f.Fits w) {m t u : RoundingMode} (hm : m = .rne ∨ m = .rmm)
    (ht : towardZero t sg = true) (hu : awayFromZero u sg = true) :
    roundedBody f m sg a = roundedBody f t sg a ∨ roundedBody f m sg a = roundedBody f u sg a := by
  obtain ⟨hbt, hbu⟩ := roundedBody_directed (f := f) (a := a) ht hu
  have hinf := infBody_pos hf
  rw [hbt, hbu, roundedBody_nearest hm]
  rcases pick_cases m sg (a.place f) with hp | ⟨hr, hp⟩
  · rw [hp]
    split_ifs <;> omega
  · rw [hp, if_neg hr]
    exact .inr rfl

/-- Rounding to nearest is infinite from the midpoint of the largest finite magnitude and the next one on. -/
theorem roundedBody_nearest_eq_infBody_iff (hf : f.Fits w) (h : a.positive = true) {m : RoundingMode}
    (hm : m = .rne ∨ m = .rmm) :
    roundedBody f m sg a = f.infBody ↔ leReal f.overflowMidpoint false a = true := by
  have hinf := infBody_pos hf
  have heven := hf.infBody_even
  have hpos := Magnitude.place_isPosition h f
  have hg := bodyValue_strictMono f
  have hlt : f.infBody - 1 < pick m sg (a.place f) ↔
      bodyValue f (f.infBody - 1) + bodyValue f (f.infBody - 1 + 1) ≤ 2 * a.val := by
    rcases hm with rfl | rfl
    · exact hpos.lt_pick_rne_iff_of_odd hg (by omega)
    · exact hpos.lt_pick_rmm_iff hg
  have hmid : bodyValue f (f.infBody - 1) + bodyValue f (f.infBody - 1 + 1) = 2 * f.overflowMidpoint.val := by
    have hexp : f.emax + 1 = f.emax - f.fracBits + f.precision := by
      rw [Format.precision]
      push_cast
      ring
    rw [Nat.sub_add_cancel hinf, bodyValue_maxFinite hf, bodyValue_infBody hf, hexp, zpow_add₀ two_ne_zero,
      Format.overflowMidpoint, BinNum.val, show f.emax - (f.precision : ℤ) = f.emax - f.fracBits - 1 by
        rw [Format.precision]; push_cast; ring, zpow_sub_one₀ two_ne_zero, zpow_natCast]
    push_cast
    ring
  rw [hmid, mul_le_mul_iff_right₀ two_pos] at hlt
  rw [leReal_iff h, signed_false, ← hlt, roundedBody_nearest hm]
  omega

/-- Rounding to nearest picks the term on the side of the midpoint where the real lies. -/
theorem IsPosition.midpoint_of_pick_nearest {g : ℕ → ℝ} {x : ℝ} {pos : ℕ × Rest} (hg : StrictMono g)
    (h : IsPosition g x pos) {m : RoundingMode} (hm : m = .rne ∨ m = .rmm) :
    (pick m sg pos = pos.1 → 2 * x ≤ g pos.1 + g (pos.1 + 1)) ∧
      (pick m sg pos = pos.1 + 1 → g pos.1 + g (pos.1 + 1) ≤ 2 * x) := by
  obtain ⟨n, r⟩ := pos
  have hstep : g n < g (n + 1) := hg (Nat.lt_succ_self n)
  obtain ⟨hrne, hrmm⟩ := pick_nearest sg n r
  have hpick : r = .exact ∨ r = .belowHalf → pick m sg (n, r) = n := by
    rcases hm with rfl | rfl <;> rintro (rfl | rfl) <;> rfl
  have hpick' : r = .aboveHalf → pick m sg (n, r) = n + 1 := by
    rcases hm with rfl | rfl <;> rintro rfl <;> rfl
  cases r <;> simp only [IsPosition, Rest.At] at h
  case exact => rw [hpick (.inl rfl)]; exact ⟨fun _ => by linarith, fun hc => by omega⟩
  case belowHalf => rw [hpick (.inr rfl)]; exact ⟨fun _ => by linarith, fun hc => by omega⟩
  case half => exact ⟨fun _ => h.le, fun _ => h.ge⟩
  case aboveHalf => rw [hpick' rfl]; exact ⟨fun hc => by omega, fun _ => by linarith⟩

/-- At the midpoint, ties go to the even term or to the upper one. -/
theorem IsPosition.pick_of_midpoint {g : ℕ → ℝ} {x : ℝ} {pos : ℕ × Rest} (hg : StrictMono g)
    (h : IsPosition g x pos) (hmid : 2 * x = g pos.1 + g (pos.1 + 1)) :
    pick .rne sg pos % 2 = 0 ∧ pick .rmm sg pos = pos.1 + 1 := by
  obtain ⟨n, r⟩ := pos
  have hr : r = .half := Rest.At.unique h (hg (Nat.lt_succ_self n)) hmid
  subst hr
  obtain ⟨hrne, hrmm⟩ := pick_nearest sg n .half
  rw [hrne, hrmm]
  refine ⟨?_, rfl⟩
  rcases Nat.mod_two_eq_zero_or_one n with hn | hn <;> simp [hn]
  omega

/-- Where both directed results are finite and differ, the nearest modes go by their midpoint. -/
theorem roundedBody_nearest_by_midpoint (h : a.positive = true) {t u : RoundingMode} (ht : towardZero t sg = true)
    (hu : awayFromZero u sg = true) (hfin : roundedBody f u sg a < f.infBody)
    (hne : roundedBody f t sg a ≠ roundedBody f u sg a) {mid : ℝ}
    (hmid : 2 * mid = bodyValue f (roundedBody f t sg a) + bodyValue f (roundedBody f u sg a)) :
    (∀ m, m = .rne ∨ m = .rmm →
      (roundedBody f m sg a = roundedBody f t sg a → a.val ≤ mid) ∧
      (roundedBody f m sg a = roundedBody f u sg a → mid ≤ a.val)) ∧
    (a.val = mid → roundedBody f .rne sg a % 2 = 0 ∧ roundedBody f .rmm sg a = roundedBody f u sg a) := by
  obtain ⟨hbt, hbu⟩ := roundedBody_directed (f := f) (a := a) ht hu
  have hg := bodyValue_strictMono f
  have hpos := Magnitude.place_isPosition h f
  have hr : (a.place f).2 ≠ .exact := by
    intro hr
    rw [if_pos hr] at hbu
    omega
  rw [if_neg hr] at hbu
  have ht' : roundedBody f t sg a = (a.place f).1 := by omega
  have hu' : roundedBody f u sg a = (a.place f).1 + 1 := by omega
  have hnear (m : RoundingMode) (hm : m = .rne ∨ m = .rmm) : roundedBody f m sg a = pick m sg (a.place f) := by
    rw [roundedBody_nearest hm]
    rcases pick_cases m sg (a.place f) with hp | ⟨-, hp⟩ <;> omega
  rw [ht', hu'] at hmid ⊢
  refine ⟨fun m hm => ?_, fun hval => ?_⟩
  · obtain ⟨hlo, hhi⟩ := hpos.midpoint_of_pick_nearest (sg := sg) hg hm
    rw [hnear m hm]
    exact ⟨fun hp => by linarith [hlo hp], fun hp => by linarith [hhi hp]⟩
  · rw [hnear .rne (.inl rfl), hnear .rmm (.inr rfl)]
    exact hpos.pick_of_midpoint hg (by linarith)

theorem packBits_inj (hf : f.Fits w) {sg : Bool} {n k : ℕ} (hn : n < f.signWeight) (hk : k < f.signWeight) :
    (packBits f sg n : BitVec w) = packBits f sg k ↔ n = k := by
  refine ⟨fun h => ?_, fun h => by rw [h]⟩
  rw [← hf.bodyOf_packBits sg hn, h, hf.bodyOf_packBits sg hk]

/-- Settles O50: on either side of zero, by the midpoint of the two directed results. -/
theorem nearestModesPickTheNearer : Obligations.NearestModesPickTheNearer := by
  rintro w f hstd tin sg a h d u n m rfl rfl rfl rfl
  have hf := hstd.fits
  have hlt (k : RoundingMode) := roundedBody_lt f k sg a
  simp only [roundMagnitude_eq hf h, isFinite_packBits_iff hf sg (hlt _), isInf_packBits_iff hf sg (hlt _), ne_eq,
    packBits_inj hf (hlt _) (hlt _), leReal_iff h, realLe_iff h, hf.getLsbD_zero_packBits sg (hlt _)]
  have hoverflow {k : RoundingMode} (hk : k = .rne ∨ k = .rmm) := roundedBody_nearest_eq_infBody_iff (sg := sg) hf h hk
  simp only [leReal_iff h] at hoverflow
  have hmid : (((valueOf f (packBits f sg (roundedBody f .rdn sg a) : BitVec w)).add
      (valueOf f (packBits f sg (roundedBody f .rup sg a) : BitVec w))).half).val = signed sg
        ((bodyValue f (roundedBody f .rdn sg a) + bodyValue f (roundedBody f .rup sg a)) / 2) := by
    rw [BinNum.val_half, BinNum.val_add, val_packBits hf sg (hlt _), val_packBits hf sg (hlt _)]
    cases sg <;> simp
    ring
  cases sg with
  | false =>
    refine ⟨roundedBody_nearest_mem hf (.inl rfl) rfl rfl, roundedBody_nearest_mem hf (.inr rfl) rfl rfl,
      hoverflow (.inl rfl), hoverflow (.inr rfl), ?_⟩
    rintro - hfin hne mid rfl
    obtain ⟨hside, htie⟩ := roundedBody_nearest_by_midpoint (t := .rdn) (u := .rup) h rfl rfl hfin hne
      (mid := (bodyValue f (roundedBody f .rdn false a) + bodyValue f (roundedBody f .rup false a)) / 2) (by ring)
    rw [hmid, signed_false, signed_false]
    refine ⟨?_, ?_, fun hle hge => ?_⟩
    · rintro (hn | hm)
      · exact (hside .rne (.inl rfl)).1 hn
      · exact (hside .rmm (.inr rfl)).1 hm
    · rintro (hn | hm)
      · exact (hside .rne (.inl rfl)).2 hn
      · exact (hside .rmm (.inr rfl)).2 hm
    · obtain ⟨heven, haway⟩ := htie (le_antisymm hle hge)
      exact ⟨by simp [heven], by simp [haway]⟩
  | true =>
    refine ⟨(roundedBody_nearest_mem hf (.inl rfl) rfl rfl).symm, (roundedBody_nearest_mem hf (.inr rfl) rfl rfl).symm,
      hoverflow (.inl rfl), hoverflow (.inr rfl), ?_⟩
    rintro hfin - hne mid rfl
    obtain ⟨hside, htie⟩ := roundedBody_nearest_by_midpoint (t := .rup) (u := .rdn) h rfl rfl hfin (Ne.symm hne)
      (mid := (bodyValue f (roundedBody f .rdn true a) + bodyValue f (roundedBody f .rup true a)) / 2) (by ring)
    rw [hmid, signed_true, signed_true, neg_le_neg_iff, neg_le_neg_iff]
    refine ⟨?_, ?_, fun hle hge => ?_⟩
    · rintro (hn | hm)
      · exact (hside .rne (.inl rfl)).2 hn
      · exact (hside .rmm (.inr rfl)).2 hm
    · rintro (hn | hm)
      · exact (hside .rne (.inl rfl)).1 hn
      · exact (hside .rmm (.inr rfl)).1 hm
    · obtain ⟨heven, haway⟩ := htie (le_antisymm hge hle)
      exact ⟨by simp [heven], by simp [haway]⟩

end Nearest

end Sys2Proof.Machine
end

section
/-! Operands that are no finite nonzero numbers: NaNs, infinities and zeros (40_numerics.md R77, R78, R86
to R93, R98). -/

namespace Sys2Proof.Machine

/-! ### The classes exclude each other (40_numerics.md R75) -/

section Classes

variable {f : Format} {w : ℕ} {a : BitVec w}

theorem isNaN_of_isInf (h : isInf f a = true) : isNaN f a = false := by
  rw [isInf_iff] at h
  rw [← Bool.not_eq_true, isNaN_iff]
  omega

theorem isInf_of_isFinite (h : isFinite f a = true) : isInf f a = false := by
  rw [isFinite, Bool.and_eq_true, Bool.not_eq_true', Bool.not_eq_true'] at h
  exact h.2

theorem isFinite_of_isZero (hf : f.Fits w) (h : isZero f a = true) : isFinite f a = true := by
  rw [isZero_iff] at h
  rw [isFinite_iff, h]
  exact infBody_pos hf

theorem isInf_of_isZero (hf : f.Fits w) (h : isZero f a = true) : isInf f a = false :=
  isInf_of_isFinite (isFinite_of_isZero hf h)

theorem isZero_of_isInf (hf : f.Fits w) (h : isInf f a = true) : isZero f a = false := by
  have hinf := infBody_pos hf
  rw [isInf_iff] at h
  rw [← Bool.not_eq_true, isZero_iff]
  omega

/-- An infinity is known by its sign. -/
theorem eq_infOf (hf : f.Fits w) (h : isInf f a = true) : a = infOf f (signBit f a) := by
  have hpack : (infOf f (signBit f a) : BitVec w) = packBits f (signBit f a) f.infBody := rfl
  rw [hpack, ← (isInf_iff f a).mp h, hf.packBits_bodyOf]

/-! ### The pattern with its sign inverted (40_numerics.md R89) -/

theorem signBit_flipSign (hf : f.Fits w) (a : BitVec w) : signBit f (flipSign f a) = !signBit f a := by
  have hw : f.expBits + f.fracBits < w := by have := hf.width; omega
  rw [signBit, signBit, flipSign, BitVec.getLsbD_xor, BitVec.getLsbD_ofNat, Format.signWeight, Nat.testBit_two_pow_self,
    decide_eq_true hw, Bool.and_true, Bool.xor_true]

theorem bodyOf_flipSign (hf : f.Fits w) (a : BitVec w) : bodyOf f (flipSign f a) = bodyOf f a := by
  have hw := hf.two_pow_width
  have hpos := f.signWeight_pos
  have hself : f.signWeight % 2 ^ w = f.signWeight := Nat.mod_eq_of_lt (by omega)
  rw [bodyOf, bodyOf, flipSign, BitVec.toNat_xor, BitVec.toNat_ofNat, hself]
  conv_lhs => rw [Format.signWeight]
  rw [Nat.xor_mod_two_pow, Nat.mod_self, Nat.xor_zero]
  rfl

theorem isNaN_flipSign (hf : f.Fits w) (a : BitVec w) : isNaN f (flipSign f a) = isNaN f a := by
  rw [Bool.eq_iff_iff, isNaN_iff, isNaN_iff, bodyOf_flipSign hf]

theorem isInf_flipSign (hf : f.Fits w) (a : BitVec w) : isInf f (flipSign f a) = isInf f a := by
  rw [Bool.eq_iff_iff, isInf_iff, isInf_iff, bodyOf_flipSign hf]

theorem isFinite_flipSign (hf : f.Fits w) (a : BitVec w) : isFinite f (flipSign f a) = isFinite f a := by
  rw [isFinite, isFinite, isNaN_flipSign hf, isInf_flipSign hf]

/-- Inverting the sign of a pattern negates its value. -/
theorem valueOf_flipSign (hf : f.Fits w) (a : BitVec w) : valueOf f (flipSign f a) = (valueOf f a).negIf true := by
  have hexp : expField f (flipSign f a) = expField f a := by rw [expField_eq, expField_eq, bodyOf_flipSign hf]
  have hfrac : fracField f (flipSign f a) = fracField f a := by rw [fracField_eq, fracField_eq, bodyOf_flipSign hf]
  have hsig : significand f (flipSign f a) = significand f a := by rw [significand, significand, hexp, hfrac]
  have hunit : unitExp f (flipSign f a) = unitExp f a := by rw [unitExp, unitExp, hexp]
  rw [valueOf, valueOf, signBit_flipSign hf, hsig, hunit]
  cases signBit f a <;> simp [BinNum.negIf]

/-- Subtraction is addition of the operand with its sign inverted. -/
theorem subF_eq (env : NumEnv w) (m : RoundingMode) {a b : BitVec w} (ha : isNaN f a = false)
    (hb : isNaN f b = false) : subF f env m a b = addF f env m a (flipSign f b) := by
  rw [subF, ha, hb]
  rfl

end Classes

/-! ### NaN operands (40_numerics.md R78) -/

/-- With a NaN among two operands, an operation delivers the produced NaN. -/
theorem nan_operand_result {w : ℕ} (f : Format) (env : NumEnv w) (m : RoundingMode) {a b : BitVec w}
    (h : isNaN f a = true ∨ isNaN f b = true) :
    ∀ op ∈ [addF f env m, subF f env m, mulF f env m, divF f env m],
      op a b = (env.nan, if isSignaling f a || isSignaling f b then flagNV else noFlags) := by
  have hnan : (isNaN f a || isNaN f b) = true := by rwa [Bool.or_eq_true]
  simp [addF, subF, mulF, divF, hnan, nanResult, flagIf]

/-- The parts of O42 on NaN operands and on the invalid product. -/
theorem nan_results (w v : ℕ) (f g : Format) (env : NumEnv w) (m : RoundingMode) (a b c : BitVec w) (e : BitVec v)
    (np nc : Bool) :
    (isNaN f a = true → sqrtF f env m a = (env.nan, if isSignaling f a then flagNV else noFlags)) ∧
    (isNaN g e = true → convertF g f env m e = (env.nan, if isSignaling g e then flagNV else noFlags)) ∧
    (((isInf f a && isZero f b) || (isZero f a && isInf f b)) = true → fmaF f env m a b c np nc = (env.nan, flagNV)) ∧
    (((isInf f a && isZero f b) || (isZero f a && isInf f b)) = false →
      isNaN f a = true ∨ isNaN f b = true ∨ isNaN f c = true →
      fmaF f env m a b c np nc =
        (env.nan, if isSignaling f a || isSignaling f b || isSignaling f c then flagNV else noFlags)) := by
  refine ⟨fun h => ?_, fun h => ?_, fun h => ?_, fun h hnan => ?_⟩
  · rw [sqrtF, if_pos h]
    rfl
  · rw [convertF, if_pos h]
    rfl
  · rw [fmaF, if_pos h]
    rfl
  · have hany : (isNaN f a || isNaN f b || isNaN f c) = true := by simpa [or_assoc] using hnan
    rw [fmaF, if_neg (by rw [h]; decide), if_pos hany]
    rfl

/-! ### Infinite operands (40_numerics.md R89 to R93) -/

section Infinite

variable {f : Format} {w : ℕ} {env : NumEnv w} {m : RoundingMode} {a b c : BitVec w}

theorem addF_inf_inf (hf : f.Fits w) (ha : isInf f a = true) (hb : isInf f b = true) :
    addF f env m a b = if signBit f a = signBit f b then (infOf f (signBit f a), noFlags) else (env.nan, flagNV) := by
  rw [addF, isNaN_of_isInf ha, isNaN_of_isInf hb, ha, hb, ← eq_infOf hf ha]
  by_cases h : signBit f a = signBit f b
  · simp [h]
  · simp [h, invalidResult]

theorem addF_inf_finite (hf : f.Fits w) (ha : isInf f a = true) (hb : isFinite f b = true) :
    addF f env m a b = (infOf f (signBit f a), noFlags) ∧ addF f env m b a = (infOf f (signBit f a), noFlags) := by
  rw [← eq_infOf hf ha]
  simp [addF, isNaN_of_isInf ha, isNaN_of_isFinite hb, isInf_of_isFinite hb, ha]

/-- The part of O42 on infinite operands of addition, subtraction, multiplication and division. -/
theorem infinite_pair_results (hf : f.Fits w) (ha : isInf f a = true) (hb : isInf f b = true) :
    addF f env m a b = (if signBit f a = signBit f b then (infOf f (signBit f a), noFlags) else (env.nan, flagNV)) ∧
    subF f env m a b = (if signBit f a = signBit f b then (env.nan, flagNV) else (infOf f (signBit f a), noFlags)) ∧
    mulF f env m a b = (infOf f (signBit f a ^^ signBit f b), noFlags) ∧ divF f env m a b = (env.nan, flagNV) := by
  have hb' : isInf f (flipSign f b) = true := by rw [isInf_flipSign hf, hb]
  refine ⟨addF_inf_inf hf ha hb, ?_, ?_, ?_⟩
  · rw [subF_eq env m (isNaN_of_isInf ha) (isNaN_of_isInf hb), addF_inf_inf hf ha hb', signBit_flipSign hf]
    cases signBit f a <;> cases signBit f b <;> rfl
  · simp [mulF, isNaN_of_isInf ha, isNaN_of_isInf hb, isZero_of_isInf hf ha, isZero_of_isInf hf hb, ha]
  · simp [divF, isNaN_of_isInf ha, isNaN_of_isInf hb, ha, hb, invalidResult]

theorem infinite_finite_results (hf : f.Fits w) (ha : isInf f a = true) (hb : isFinite f b = true) :
    addF f env m a b = (infOf f (signBit f a), noFlags) ∧ addF f env m b a = (infOf f (signBit f a), noFlags) ∧
    subF f env m a b = (infOf f (signBit f a), noFlags) ∧ subF f env m b a = (infOf f (!signBit f a), noFlags) ∧
    mulF f env m a b = (if isZero f b then (env.nan, flagNV) else (infOf f (signBit f a ^^ signBit f b), noFlags)) ∧
    mulF f env m b a = (if isZero f b then (env.nan, flagNV) else (infOf f (signBit f a ^^ signBit f b), noFlags)) ∧
    divF f env m a b = (infOf f (signBit f a ^^ signBit f b), noFlags) := by
  have hna := isNaN_of_isInf ha
  have hnb := isNaN_of_isFinite hb
  have hza := isZero_of_isInf hf ha
  have hib := isInf_of_isFinite hb
  have ha' : isInf f (flipSign f a) = true := by rw [isInf_flipSign hf, ha]
  have hb' : isFinite f (flipSign f b) = true := by rw [isFinite_flipSign hf, hb]
  refine ⟨(addF_inf_finite hf ha hb).1, (addF_inf_finite hf ha hb).2, ?_, ?_, ?_, ?_, ?_⟩
  · rw [subF_eq env m hna hnb, (addF_inf_finite hf ha hb').1]
  · rw [subF_eq env m hnb hna, (addF_inf_finite hf ha' hb).2, signBit_flipSign hf]
  · cases hz : isZero f b <;> simp [mulF, hna, hnb, hza, ha, hz, invalidResult]
  · cases hz : isZero f b <;> simp [mulF, hna, hnb, hza, ha, hib, hz, invalidResult, Bool.xor_comm (signBit f b)]
  · simp [divF, hna, hnb, hza, ha, hib]

theorem fmaF_infinite_product (hf : f.Fits w)
    (h : (isInf f a = true ∧ isNaN f b = false ∧ isZero f b = false) ∨
      (isInf f b = true ∧ isNaN f a = false ∧ isZero f a = false)) (hc : isNaN f c = false) (np nc : Bool) :
    fmaF f env m a b c np nc =
      if isInf f c = true ∧ (signBit f c ^^ nc) ≠ (signBit f a ^^ signBit f b ^^ np) then (env.nan, flagNV)
      else (infOf f (signBit f a ^^ signBit f b ^^ np), noFlags) := by
  have hvalid : ((isInf f a && isZero f b) || (isZero f a && isInf f b)) = false := by
    rcases h with ⟨ha, -, hz⟩ | ⟨hb, -, hz⟩
    · rw [hz, isZero_of_isInf hf ha, Bool.and_false, Bool.false_and, Bool.or_self]
    · rw [hz, isZero_of_isInf hf hb, Bool.and_false, Bool.false_and, Bool.or_self]
  have hnan : (isNaN f a || isNaN f b || isNaN f c) = false := by
    rcases h with ⟨ha, hn, -⟩ | ⟨hb, hn, -⟩
    · rw [hn, isNaN_of_isInf ha, hc, Bool.or_self, Bool.or_self]
    · rw [hn, isNaN_of_isInf hb, hc, Bool.or_self, Bool.or_self]
  have hinf : (isInf f a || isInf f b) = true := by
    rcases h with ⟨ha, -, -⟩ | ⟨hb, -, -⟩
    · rw [ha, Bool.true_or]
    · rw [hb, Bool.or_true]
  simp only [fmaF, hvalid, hnan, hinf, Bool.false_eq_true, if_false, if_true, invalidResult, Bool.and_eq_true,
    bne_iff_ne]

theorem fmaF_infinite_addend (ha : isFinite f a = true) (hb : isFinite f b = true)
    (hc : isInf f c = true) (np nc : Bool) :
    fmaF f env m a b c np nc = (infOf f (signBit f c ^^ nc), noFlags) := by
  simp [fmaF, isNaN_of_isFinite ha, isNaN_of_isFinite hb, isNaN_of_isInf hc, isInf_of_isFinite ha,
    isInf_of_isFinite hb, hc]

end Infinite

/-! ### The produced NaN (40_numerics.md R77) -/

/-- Joined patterns as numbers. -/
theorem toNat_append_eq {n k : ℕ} (x : BitVec n) (y : BitVec k) : (x ++ y).toNat = x.toNat * 2 ^ k + y.toNat := by
  rw [BitVec.toNat_append, Nat.shiftLeft_eq, Nat.mul_comm, Nat.two_pow_add_eq_or_of_lt y.isLt]

theorem toNat_quietNaN32 (b : BitVec 23) :
    (quietNaN32 b).toNat = b.toNat / 2 ^ 22 * 2 ^ 31 + 0x7fc00000 + b.toNat % 2 ^ 22 := by
  have hb := b.isLt
  have hexp : (0xff : BitVec 8).toNat = 255 := rfl
  have hquiet : (1 : BitVec 1).toNat = 1 := rfl
  change (b.extractLsb' 22 1 ++ (0xff : BitVec 8) ++ (1 : BitVec 1) ++ b.extractLsb' 0 22 :
    BitVec (1 + 8 + 1 + 22)).toNat = _
  simp only [toNat_append_eq, BitVec.extractLsb'_toNat, Nat.shiftRight_eq_div_pow, hexp, hquiet, Nat.pow_zero,
    Nat.div_one]
  omega

theorem toNat_quietNaN64 (b : BitVec 52) :
    (quietNaN64 b).toNat = b.toNat / 2 ^ 51 * 2 ^ 63 + 0x7ff8000000000000 + b.toNat % 2 ^ 51 := by
  have hb := b.isLt
  have hexp : (0x7ff : BitVec 11).toNat = 2047 := rfl
  have hquiet : (1 : BitVec 1).toNat = 1 := rfl
  change (b.extractLsb' 51 1 ++ (0x7ff : BitVec 11) ++ (1 : BitVec 1) ++ b.extractLsb' 0 51 :
    BitVec (1 + 11 + 1 + 51)).toNat = _
  simp only [toNat_append_eq, BitVec.extractLsb'_toNat, Nat.shiftRight_eq_div_pow, hexp, hquiet, Nat.pow_zero,
    Nat.div_one]
  omega

theorem binary32_fits : binary32.Fits 32 := isStandard.fits (.inl ⟨rfl, rfl⟩)

theorem binary64_fits : binary64.Fits 64 := isStandard.fits (.inr ⟨rfl, rfl⟩)

/-- The quiet NaNs of binary32, as ranges of the pattern. -/
theorem isQuiet32_iff (x : Word) : isNaN binary32 x = true ∧ isSignaling binary32 x = false ↔
    0x7fc00000 ≤ x.toNat % 2 ^ 31 := by
  have hinf : binary32.infBody = 0x7f800000 := rfl
  have hbody : bodyOf binary32 x = x.toNat % 2 ^ 31 := rfl
  have hquiet : 2 ^ (binary32.fracBits - 1) = 0x400000 := rfl
  rw [← Bool.not_eq_true (isSignaling _ _), isNaN_iff, isSignaling_iff binary32_fits, hinf, hbody, hquiet]
  omega

/-- The quiet NaNs of binary64, as ranges of the pattern. -/
theorem isQuiet64_iff (x : DWord) : isNaN binary64 x = true ∧ isSignaling binary64 x = false ↔
    0x7ff8000000000000 ≤ x.toNat % 2 ^ 63 := by
  have hinf : binary64.infBody = 0x7ff0000000000000 := rfl
  have hbody : bodyOf binary64 x = x.toNat % 2 ^ 63 := rfl
  have hquiet : 2 ^ (binary64.fracBits - 1) = 0x8000000000000 := rfl
  rw [← Bool.not_eq_true (isSignaling _ _), isNaN_iff, isSignaling_iff binary64_fits, hinf, hbody, hquiet]
  omega

/-- Every quiet NaN of binary32 can be drawn. -/
theorem exists_quietNaN32 {x : Word} (hn : isNaN binary32 x = true) (hs : isSignaling binary32 x = false) :
    ∃ b, quietNaN32 b = x := by
  have hquiet := (isQuiet32_iff x).mp ⟨hn, hs⟩
  have hx := x.isLt
  refine ⟨BitVec.ofNat 23 (x.toNat / 2 ^ 31 * 2 ^ 22 + x.toNat % 2 ^ 22), BitVec.eq_of_toNat_eq ?_⟩
  rw [toNat_quietNaN32, BitVec.toNat_ofNat]
  omega

/-- Every quiet NaN of binary64 can be drawn. -/
theorem exists_quietNaN64 {x : DWord} (hn : isNaN binary64 x = true) (hs : isSignaling binary64 x = false) :
    ∃ b, quietNaN64 b = x := by
  have hquiet := (isQuiet64_iff x).mp ⟨hn, hs⟩
  have hx := x.isLt
  refine ⟨BitVec.ofNat 52 (x.toNat / 2 ^ 63 * 2 ^ 51 + x.toNat % 2 ^ 51), BitVec.eq_of_toNat_eq ?_⟩
  rw [toNat_quietNaN64, BitVec.toNat_ofNat]
  omega

/-- The NaN an operation produces is quiet, under both settings of `NAN_RESULT`. -/
theorem State.nan32_quiet (s : State) : isNaN binary32 s.nan32 = true ∧ isSignaling binary32 s.nan32 = false := by
  rw [isQuiet32_iff]
  unfold State.nan32
  split
  · decide
  · rw [toNat_quietNaN32]
    omega

theorem State.nan64_quiet (s : State) : isNaN binary64 s.nan64 = true ∧ isSignaling binary64 s.nan64 = false := by
  rw [isQuiet64_iff]
  unfold State.nan64
  split
  · decide
  · rw [toNat_quietNaN64]
    omega

/-- Settles O42: NaN operands, then infinite operands case by case, then the environment of a state. -/
theorem specialOperandsGiveTheSpecialResults : Obligations.SpecialOperandsGiveTheSpecialResults := by
  refine ⟨fun w v f g env m a b c e np nc => ⟨nan_operand_result f env m, nan_results w v f g env m a b c e np nc⟩,
    fun w f hstd env m a b c np nc => ?_, fun s => ?_, fun x => exists_quietNaN32, fun x => exists_quietNaN64⟩
  · have hf := hstd.fits
    refine ⟨infinite_pair_results hf, infinite_finite_results hf, fun ha hb => ?_, fun hn hz hs => ?_, fun ha hs => ?_,
      fun h hc => fmaF_infinite_product hf h hc np nc, fun ha hb hc => fmaF_infinite_addend ha hb hc np nc,
      fun v g e hg ha => ?_⟩
    · simp [divF, isNaN_of_isZero ha, isNaN_of_isZero hb, ha, hb, invalidResult]
    · simp [sqrtF, hn, hz, hs, invalidResult]
    · have heq := eq_infOf hf ha
      rw [hs] at heq
      rw [← heq]
      simp [sqrtF, isNaN_of_isInf ha, isZero_of_isInf hf ha, hs, ha]
    · simp [convertF, isNaN_of_isInf ha, ha]
  · obtain ⟨hn32, hs32⟩ := s.nan32_quiet
    obtain ⟨hn64, hs64⟩ := s.nan64_quiet
    refine ⟨rfl, rfl, rfl, rfl, fun h => ?_, fun h => ?_, hn32, hs32, hn64, hs64⟩
    · simp [State.envS, State.envD, State.nan32, State.nan64, h, canonicalNaN32, canonicalNaN64]
    · simp [State.envS, State.envD, State.nan32, State.nan64, h]

end Sys2Proof.Machine
end

section
/-! Arithmetic on finite operands, the signs of zeros, and the flags each operation can raise (40_numerics.md R85 to
R93). -/

namespace Sys2Proof.Machine

/-! ### Finite operands are rounded once (40_numerics.md R82, R89 to R93) -/

section Finite

variable {f : Format} {w : ℕ} {env : NumEnv w} {m : RoundingMode} {a b c : BitVec w}

/-- Addition of finite operands: the exact sum rounded, or a zero. -/
theorem addF_finite (ha : isFinite f a = true) (hb : isFinite f b = true) :
    addF f env m a b =
      if ((valueOf f a).add (valueOf f b)).num = 0 then (zeroOf f (zeroSumSign m (signBit f a) (signBit f b)), noFlags)
      else roundNum f env.tininess m ((valueOf f a).add (valueOf f b)) := by
  simp [addF, isNaN_of_isFinite ha, isNaN_of_isFinite hb, isInf_of_isFinite ha, isInf_of_isFinite hb]

/-- Subtraction of finite operands: the exact difference rounded, or a zero. -/
theorem subF_finite (hf : f.Fits w) (ha : isFinite f a = true) (hb : isFinite f b = true) :
    subF f env m a b =
      if ((valueOf f a).add ((valueOf f b).negIf true)).num = 0 then
        (zeroOf f (zeroSumSign m (signBit f a) (!signBit f b)), noFlags)
      else roundNum f env.tininess m ((valueOf f a).add ((valueOf f b).negIf true)) := by
  have hb' : isFinite f (flipSign f b) = true := by rw [isFinite_flipSign hf, hb]
  rw [subF_eq env m (isNaN_of_isFinite ha) (isNaN_of_isFinite hb), addF_finite ha hb', valueOf_flipSign hf,
    signBit_flipSign hf]

/-- The fused operation on finite operands: the exact value rounded, or a zero. -/
theorem fmaF_finite (ha : isFinite f a = true) (hb : isFinite f b = true) (hc : isFinite f c = true) (np nc : Bool) :
    fmaF f env m a b c np nc =
      if ((((valueOf f a).mul (valueOf f b)).negIf np).add ((valueOf f c).negIf nc)).num = 0 then
        (zeroOf f (zeroSumSign m (signBit f a ^^ signBit f b ^^ np) (signBit f c ^^ nc)), noFlags)
      else roundNum f env.tininess m ((((valueOf f a).mul (valueOf f b)).negIf np).add ((valueOf f c).negIf nc)) := by
  simp [fmaF, isNaN_of_isFinite ha, isNaN_of_isFinite hb, isNaN_of_isFinite hc, isInf_of_isFinite ha,
    isInf_of_isFinite hb, isInf_of_isFinite hc]

theorem mulF_finite (ha : isFinite f a = true) (hb : isFinite f b = true) :
    mulF f env m a b =
      if ((valueOf f a).mul (valueOf f b)).num = 0 then (zeroOf f (signBit f a ^^ signBit f b), noFlags)
      else roundNum f env.tininess m ((valueOf f a).mul (valueOf f b)) := by
  simp [mulF, isNaN_of_isFinite ha, isNaN_of_isFinite hb, isInf_of_isFinite ha, isInf_of_isFinite hb]

theorem divF_finite (ha : isFinite f a = true) (hb : isFinite f b = true) (hza : isZero f a = false)
    (hzb : isZero f b = false) :
    divF f env m a b = roundMagnitude f env.tininess m (signBit f a ^^ signBit f b)
      (.ratio (significand f a) (significand f b) (unitExp f a - unitExp f b)) := by
  simp [divF, isNaN_of_isFinite ha, isNaN_of_isFinite hb, isInf_of_isFinite ha, isInf_of_isFinite hb, hza, hzb]

theorem bodyValue_pos (hz : isZero f a = false) : 0 < bodyValue f (bodyOf f a) := by
  rw [← Bool.not_eq_true, isZero_iff] at hz
  simpa using bodyValue_strictMono f (Nat.pos_of_ne_zero hz)

theorem significand_pos (hz : isZero f a = false) : 0 < significand f a := by
  have h := bodyValue_pos hz
  rw [bodyValue_bodyOf, mul_pos_iff_of_pos_right (two_zpow_pos _)] at h
  exact_mod_cast h

theorem valueOf_num_eq_zero_iff : (valueOf f a).num = 0 ↔ isZero f a = true := by
  constructor
  · intro h
    by_contra hz
    exact (valueOf_magnitude (Bool.not_eq_true _ ▸ hz)).1 h
  · intro h
    rw [← BinNum.val_eq_zero_iff, val_valueOf, (isZero_iff f a).mp h, bodyValue_zero]
    cases signBit f a <;> simp

theorem mul_num_eq_zero_iff :
    ((valueOf f a).mul (valueOf f b)).num = 0 ↔ isZero f a = true ∨ isZero f b = true := by
  rw [← valueOf_num_eq_zero_iff, ← valueOf_num_eq_zero_iff]
  exact mul_eq_zero

/-- The magnitude that division rounds. -/
theorem quotient_val (hza : isZero f a = false) (hzb : isZero f b = false) :
    (Magnitude.ratio (significand f a) (significand f b) (unitExp f a - unitExp f b)).positive = true ∧
    (Magnitude.ratio (significand f a) (significand f b) (unitExp f a - unitExp f b)).val =
      bodyValue f (bodyOf f a) / bodyValue f (bodyOf f b) := by
  refine ⟨by simp [Magnitude.positive, significand_pos hza, significand_pos hzb], ?_⟩
  rw [Magnitude.val, bodyValue_bodyOf, bodyValue_bodyOf, zpow_sub₀ two_ne_zero, div_mul_div_comm]

/-- The exact quotient is at or above `q` exactly when the dividend is at or above `q` times the divisor, both with the
divisor's sign taken off. -/
theorem quotient_bounds (hzb : isZero f b = false) (q : BinNum) :
    ((q.mul ((valueOf f b).negIf (signBit f b))).le ((valueOf f a).negIf (signBit f b)) = true ↔
      q.val ≤ signed (signBit f a ^^ signBit f b) (bodyValue f (bodyOf f a) / bodyValue f (bodyOf f b))) ∧
    (((valueOf f a).negIf (signBit f b)).le (q.mul ((valueOf f b).negIf (signBit f b))) = true ↔
      signed (signBit f a ^^ signBit f b) (bodyValue f (bodyOf f a) / bodyValue f (bodyOf f b)) ≤ q.val) := by
  have hb := bodyValue_pos hzb
  have hdivisor : ((valueOf f b).negIf (signBit f b)).val = bodyValue f (bodyOf f b) := by
    rw [BinNum.val_negIf, val_valueOf]
    cases signBit f b <;> simp
  have hdividend : ((valueOf f a).negIf (signBit f b)).val =
      signed (signBit f a ^^ signBit f b) (bodyValue f (bodyOf f a)) := by
    rw [BinNum.val_negIf, val_valueOf]
    cases signBit f a <;> cases signBit f b <;> simp
  have hquot : signed (signBit f a ^^ signBit f b) (bodyValue f (bodyOf f a) / bodyValue f (bodyOf f b)) =
      signed (signBit f a ^^ signBit f b) (bodyValue f (bodyOf f a)) / bodyValue f (bodyOf f b) := by
    cases signBit f a ^^ signBit f b <;> simp [neg_div]
  rw [BinNum.le_iff, BinNum.le_iff, BinNum.val_mul, hdivisor, hdividend, hquot, le_div_iff₀ hb, div_le_iff₀ hb]
  exact ⟨Iff.rfl, Iff.rfl⟩

/-- Settles O60: each operation on finite operands is one rounding, and division's directed results bracket. -/
theorem finiteArithmeticRoundsTheExactResult : Obligations.FiniteArithmeticRoundsTheExactResult := by
  intro w f hstd env m a b c ha hb
  have hf := hstd.fits
  refine ⟨fun h => by rw [addF_finite ha hb, if_neg h], fun h => by rw [subF_finite hf ha hb, if_neg h],
    fun hc np nc h => by rw [fmaF_finite ha hb hc, if_neg h], fun hza hzb => ⟨?_, divF_finite ha hb hza hzb, ?_⟩⟩
  · rw [mulF_finite ha hb, if_neg]
    rw [mul_num_eq_zero_iff, hza, hzb]
    decide
  · rintro d u dividend divisor rfl rfl rfl rfl
    obtain ⟨hpos, hval⟩ := quotient_val hza hzb
    rw [divF_finite ha hb hza hzb, divF_finite ha hb hza hzb, roundMagnitude_eq hf hpos, roundMagnitude_eq hf hpos]
    have hd := rdn_isGreatestBelow hf hpos (signBit f a ^^ signBit f b)
    have hu := rup_isLeastAbove hf hpos (signBit f a ^^ signBit f b)
    rw [hval] at hd hu
    simp only [(quotient_bounds hzb _).1, (quotient_bounds hzb _).2]
    exact ⟨hd.le, hu.le, fun q hq => ⟨hd.greatest q hq, hu.least q hq⟩⟩

/-! ### The signs of zeros (40_numerics.md R86) -/

/-- Rounding to zero keeps the sign of the real. -/
theorem roundMagnitude_zero_sign (hf : f.Fits w) {tin : Tininess} {sg : Bool} {r : Magnitude} (h : r.positive = true)
    (hz : isZero f (roundMagnitude f tin m sg r : BitVec w × FlagSet).1 = true) :
    (roundMagnitude f tin m sg r : BitVec w × FlagSet).1 = zeroOf f sg := by
  rw [roundMagnitude_eq hf h] at hz ⊢
  rw [eq_zeroOf hf hz, hf.signBit_packBits sg (roundedBody_lt f m sg r)]

/-- Settles O45: a rounded zero by its magnitude bits, an exact zero by the branch of its operation. -/
theorem zeroSigns : Obligations.ZeroSigns := by
  intro w f hstd env m a b c
  have hf := hstd.fits
  refine ⟨fun tin r hr => roundMagnitude_zero_sign hf (BinNum.magnitude_positive hr),
    fun tin sg r hr => roundMagnitude_zero_sign hf hr, fun ha hb h => ?_, fun ha hb h => ?_, fun ha hb hc np nc h => ?_,
    fun ha hb => ?_, fun ha hnb hzb => ?_, fun ha hb => ?_, ?_⟩
  · rw [addF_finite ha hb, if_pos h, zeroSumSign]
  · rw [subF_finite hf ha hb, if_pos h, zeroSumSign]
  · rw [fmaF_finite ha hb hc, if_pos h, zeroSumSign]
    split_ifs with hs
    · rw [hs]
    · rfl
  · have hfa := isFinite_of_isZero hf ha
    rw [mulF_finite hfa hb, mulF_finite hb hfa, if_pos (mul_num_eq_zero_iff.mpr (.inl ha)),
      if_pos (mul_num_eq_zero_iff.mpr (.inr ha)), Bool.xor_comm (signBit f b)]
    exact ⟨rfl, rfl⟩
  · rcases isFinite_or_isInf hnb with hb | hb
    · simp [divF, isNaN_of_isZero ha, hnb, hzb, ha, isInf_of_isZero hf ha, isInf_of_isFinite hb]
    · simp [divF, isNaN_of_isZero ha, hnb, hzb, ha, isInf_of_isZero hf ha, hb]
  · simp [divF, isNaN_of_isFinite ha, isNaN_of_isInf hb, isInf_of_isFinite ha, hb, isZero_of_isInf hf hb]
  · have hz : isZero f (zeroOf f true : BitVec w) = true := hf.isZero_zeroOf
    simp [sqrtF, isNaN_of_isZero hz, hz]

end Finite

end Sys2Proof.Machine
end

section
/-! Multiplication and division by one, and the flags within R87's table (40_numerics.md R87, R90, R91, R93, R100). -/

namespace Sys2Proof.Machine

/-! ### One (40_numerics.md R104) -/

section One

variable {f : Format} {w : ℕ} {env : NumEnv w} {m : RoundingMode} {a c : BitVec w}

/-- The magnitude bits of the pattern of 1. -/
def oneBody (f : Format) : ℕ := (2 ^ (f.expBits - 1) - 1) * 2 ^ f.fracBits

theorem oneOf_eq (f : Format) : (oneOf f : BitVec w) = packBits f false (oneBody f) := by
  rw [oneOf, oneBody, Nat.sub_mul, Nat.one_mul]

theorem oneBody_bounds (hf : f.Fits w) : 0 < oneBody f ∧ oneBody f < f.infBody := by
  have hrange := hf.range
  have hpow : 2 ^ (f.expBits - 1) < 2 ^ f.expBits := Nat.pow_lt_pow_right (by omega) (by have := hf.exp; omega)
  have hpos : 0 < 2 ^ f.fracBits := Nat.two_pow_pos _
  exact ⟨Nat.mul_pos (by omega) hpos, Nat.mul_lt_mul_of_pos_right (by rw [Format.expMax]; omega) hpos⟩

theorem bodyValue_oneBody (hf : f.Fits w) : bodyValue f (oneBody f) = 1 := by
  have hrange := hf.range
  have hbody : oneBody f = (2 ^ (f.expBits - 1) - 2) * 2 ^ f.fracBits + 2 ^ f.fracBits := by
    rw [oneBody, ← Nat.succ_mul]
    congr 1
    omega
  rw [hbody, bodyValue_add f (Nat.pow_le_pow_right (n := 2) (by omega) (by omega)) (.inl le_rfl), two_zpow_add_nat,
    Format.qmin, Format.emin, Format.emax, Nat.cast_sub (by omega)]
  push_cast
  rw [show (1 - (2 ^ (f.expBits - 1) - 1) - (f.fracBits : ℤ) + (2 ^ (f.expBits - 1) - 2) + f.fracBits) = 0 by ring,
    zpow_zero]

theorem oneOf_facts (hf : f.Fits w) : isFinite f (oneOf f : BitVec w) = true ∧ isZero f (oneOf f : BitVec w) = false ∧
    signBit f (oneOf f : BitVec w) = false ∧ bodyValue f (bodyOf f (oneOf f : BitVec w)) = 1 := by
  obtain ⟨hpos, hfin⟩ := oneBody_bounds hf
  have hlt := hfin.trans f.infBody_lt
  rw [oneOf_eq, isFinite_packBits_iff hf _ hlt, ← Bool.not_eq_true, isZero_iff, hf.signBit_packBits _ hlt,
    hf.bodyOf_packBits _ hlt]
  exact ⟨hfin, hpos.ne', rfl, bodyValue_oneBody hf⟩

theorem val_oneOf (hf : f.Fits w) : (valueOf f (oneOf f : BitVec w)).val = 1 := by
  obtain ⟨-, -, hs, hval⟩ := oneOf_facts (w := w) hf
  rw [val_valueOf, hs, hval, signed_false]

theorem mulF_one (hf : f.Fits w) (ha : isNaN f a = false) : mulF f env m a (oneOf f) = (a, noFlags) := by
  obtain ⟨hfin, hz1, hs1, -⟩ := oneOf_facts (w := w) hf
  rcases isFinite_or_isInf ha with hfa | hia
  · rw [mulF_finite hfa hfin]
    split_ifs with h
    · have hza : isZero f a = true := (mul_num_eq_zero_iff.mp h).resolve_right (by rw [hz1]; decide)
      rw [hs1, Bool.xor_false, ← eq_zeroOf hf hza]
    · have hza : isZero f a = false := Bool.not_eq_true _ ▸ fun hz => h (mul_num_eq_zero_iff.mpr (.inl hz))
      exact roundNum_of_val_eq hf hfa hza (by rw [BinNum.val_mul, val_oneOf hf, mul_one])
  · simp [mulF, ha, isNaN_of_isFinite hfin, hia, hz1, isZero_of_isInf hf hia, hs1, ← eq_infOf hf hia]

theorem divF_one (hf : f.Fits w) (ha : isNaN f a = false) : divF f env m a (oneOf f) = (a, noFlags) := by
  obtain ⟨hfin, hz1, hs1, hval1⟩ := oneOf_facts (w := w) hf
  rcases isFinite_or_isInf ha with hfa | hia
  · rcases hza : isZero f a with _ | _
    · obtain ⟨hpos, hval⟩ := quotient_val hza hz1
      rw [divF_finite hfa hfin hza hz1, hs1, Bool.xor_false,
        roundMagnitude_of_val_eq hf hpos (by rw [hval, hval1, div_one]) ((isFinite_iff f a).mp hfa), hf.packBits_bodyOf]
    · simp [divF, ha, isNaN_of_isFinite hfin, isInf_of_isFinite hfa, isInf_of_isFinite hfin, hz1, hza, hs1,
        ← eq_zeroOf hf hza]
  · simp [divF, ha, isNaN_of_isFinite hfin, isInf_of_isFinite hfin, hia, hz1, hs1, ← eq_infOf hf hia]

theorem fmaF_one (hf : f.Fits w) : fmaF f env m a (oneOf f) c false false = addF f env m a c := by
  obtain ⟨hfin, hz1, hs1, -⟩ := oneOf_facts (w := w) hf
  have hn1 := isNaN_of_isFinite hfin
  have hi1 := isInf_of_isFinite hfin
  have hsig1 := isSignaling_of_not_isNaN hn1
  by_cases hnan : isNaN f a = true ∨ isNaN f c = true
  · have hany : (isNaN f a || isNaN f c) = true := by rwa [Bool.or_eq_true]
    simp [fmaF, addF, hn1, hi1, hz1, hsig1, hany]
  simp only [not_or, Bool.not_eq_true] at hnan
  obtain ⟨hna, hnc⟩ := hnan
  rcases isFinite_or_isInf hna with hfa | hia
  · rcases isFinite_or_isInf hnc with hfc | hic
    · have hval : ((((valueOf f a).mul (valueOf f (oneOf f : BitVec w))).negIf false).add
          ((valueOf f c).negIf false)).val = ((valueOf f a).add (valueOf f c)).val := by
        rw [BinNum.val_add, BinNum.val_negIf, BinNum.val_mul, val_oneOf hf, mul_one, BinNum.val_add]
        rfl
      have hnum : ((((valueOf f a).mul (valueOf f (oneOf f : BitVec w))).negIf false).add
          ((valueOf f c).negIf false)).num = 0 ↔ ((valueOf f a).add (valueOf f c)).num = 0 := by
        rw [← BinNum.val_eq_zero_iff, hval, BinNum.val_eq_zero_iff]
      rw [fmaF_finite hfa hfin hfc, addF_finite hfa hfc, hs1, Bool.xor_false, Bool.xor_false, Bool.xor_false]
      by_cases hzero : ((valueOf f a).add (valueOf f c)).num = 0
      · rw [if_pos (hnum.mpr hzero), if_pos hzero]
      · rw [if_neg fun h => hzero (hnum.mp h), if_neg hzero, roundNum_congr (fun h => hzero (hnum.mp h)) hval]
    · rw [fmaF_infinite_addend hfa hfin hic, (addF_inf_finite hf hic hfa).2, Bool.xor_false]
  · rw [fmaF_infinite_product hf (.inl ⟨hia, hn1, hz1⟩) hnc, hs1, Bool.xor_false, Bool.xor_false, Bool.xor_false]
    rcases isFinite_or_isInf hnc with hfc | hic
    · rw [(addF_inf_finite hf hia hfc).1, if_neg (by rw [isInf_of_isFinite hfc]; simp)]
    · rw [addF_inf_inf hf hia hic]
      by_cases hs : signBit f a = signBit f c
      · rw [if_neg fun h => h.2 hs.symm, if_pos hs]
      · rw [if_pos ⟨hic, Ne.symm hs⟩, if_neg hs]

/-- Settles O54: one has the value 1, and rounding sees the value alone. -/
theorem multiplyingByOneIsExact : Obligations.MultiplyingByOneIsExact := fun _ _ hstd _ _ _ _ =>
  ⟨fun ha => ⟨mulF_one hstd.fits ha, divF_one hstd.fits ha⟩, fmaF_one hstd.fits⟩

end One

/-! ### The flags each operation can raise (40_numerics.md R87) -/

section FlagTable

variable {f : Format} {w : ℕ} {env : NumEnv w} {m : RoundingMode} {a b c : BitVec w}

/-- Whether a set of flags has DZ. -/
def raisesDZ (fl : FlagSet) : Bool := fl.getLsbD 3

@[simp] theorem raisesDZ_noFlags : raisesDZ noFlags = false := rfl

theorem raisesDZ_flagIf_nv (c : Bool) : raisesDZ (flagIf c flagNV) = false := by
  cases c <;> decide

@[simp] theorem raisesDZ_nanResult (env : NumEnv w) (c : Bool) : raisesDZ (nanResult env c).2 = false :=
  raisesDZ_flagIf_nv c

@[simp] theorem raisesDZ_invalidResult (env : NumEnv w) : raisesDZ (invalidResult env).2 = false :=
  raisesDZ_flagIf_nv true

@[simp] theorem raisesDZ_roundMagnitude (f : Format) (tin : Tininess) (m : RoundingMode) (sg : Bool) (r : Magnitude) :
    raisesDZ (roundMagnitude f tin m sg r : BitVec w × FlagSet).2 = false := (roundMagnitude_no_dz_nv f tin m sg r).1

@[simp] theorem raisesDZ_roundNum (f : Format) (tin : Tininess) (m : RoundingMode) (r : BinNum) :
    raisesDZ (roundNum f tin m r : BitVec w × FlagSet).2 = false := raisesDZ_roundMagnitude f tin m _ _

theorem addF_no_dz : raisesDZ (addF f env m a b).2 = false := by
  simp only [addF]
  split_ifs <;> simp

theorem subF_no_dz : raisesDZ (subF f env m a b).2 = false := by
  unfold subF
  split_ifs
  · simp
  · exact addF_no_dz

theorem mulF_no_dz : raisesDZ (mulF f env m a b).2 = false := by
  simp only [mulF]
  split_ifs <;> simp

theorem fmaF_no_dz (np nc : Bool) : raisesDZ (fmaF f env m a b c np nc).2 = false := by
  simp only [fmaF]
  split_ifs <;> simp

theorem sqrtF_no_dz : raisesDZ (sqrtF f env m a).2 = false := by
  unfold sqrtF
  split_ifs <;> simp

theorem convertF_no_dz {v : ℕ} (g : Format) (e : NumEnv v) : raisesDZ (convertF f g e m a).2 = false := by
  unfold convertF
  split_ifs <;> simp

/-- A set that is NV or nothing lies within NV. -/
@[simp] theorem flagIf_nv_and (c : Bool) : flagIf c flagNV &&& flagNV = flagIf c flagNV := by
  cases c <;> decide

@[simp] theorem noFlags_and (fl : FlagSet) : noFlags &&& fl = noFlags := BitVec.zero_and

theorem minMaxF_nv (mx : Bool) : (minMaxF f env mx a b).2 &&& flagNV = (minMaxF f env mx a b).2 := by
  simp only [minMaxF]
  split_ifs <;> simp [invalidResult]

theorem eqF_nv : (eqF f a b).2 &&& flagNV = (eqF f a b).2 := by
  unfold eqF
  split_ifs <;> simp

theorem ltF_nv : (ltF f a b).2 &&& flagNV = (ltF f a b).2 := by
  unfold ltF
  split_ifs <;> simp

theorem leF_nv : (leF f a b).2 &&& flagNV = (leF f a b).2 := by
  unfold leF
  split_ifs <;> simp

theorem toIntF_nv_nx (signed : Bool) :
    (toIntF f m signed a).2 &&& (flagNV ||| flagNX) = (toIntF f m signed a).2 := by
  have hnv : flagNV &&& (flagNV ||| flagNX) = flagNV := by decide
  have hnx (c : Bool) : flagIf c flagNX &&& (flagNV ||| flagNX) = flagIf c flagNX := by cases c <;> decide
  simp only [toIntF]
  split_ifs <;> simp [hnv, hnx]

/-- Division by a zero of a finite nonzero dividend (40_numerics.md R91). -/
theorem divF_by_zero (hf : f.Fits w) (ha : isFinite f a = true) (hza : isZero f a = false) (hzb : isZero f b = true) :
    divF f env m a b = (infOf f (signBit f a ^^ signBit f b), flagDZ) := by
  simp [divF, isNaN_of_isFinite ha, isNaN_of_isZero hzb, isInf_of_isFinite ha, isInf_of_isZero hf hzb, hza, hzb]

/-- No other division raises DZ. -/
theorem divF_no_dz (h : ¬(isFinite f a = true ∧ isZero f a = false ∧ isZero f b = true)) :
    raisesDZ (divF f env m a b).2 = false := by
  simp only [divF]
  split_ifs with hnan hinv hia hib hzb
  any_goals simp
  simp only [Bool.or_eq_true, Bool.and_eq_true, not_or, not_and, Bool.not_eq_true] at hnan hinv hia
  refine absurd ⟨?_, ?_, hzb⟩ h
  · rw [isFinite, hnan.1, hia]
    rfl
  · exact Bool.eq_false_iff.mpr fun hza => by simp [hinv.2 hza] at hzb

/-- Settles O59: each operation by its branches. -/
theorem flagsWithinTheTable : Obligations.FlagsWithinTheTable := by
  intro w f hstd env m a b c np nc mx sgn
  refine ⟨addF_no_dz, subF_no_dz, mulF_no_dz, fmaF_no_dz np nc, sqrtF_no_dz, fun _ => convertF_no_dz, minMaxF_nv mx,
    eqF_nv, ltF_nv, leF_nv, toIntF_nv_nx sgn, ⟨fun hdz => ?_, fun ⟨ha, hza, hzb⟩ => ?_⟩, divF_by_zero hstd.fits⟩
  · by_contra h
    exact Bool.false_ne_true ((divF_no_dz h).symm.trans hdz)
  · rw [divF_by_zero hstd.fits ha hza hzb]
    exact (rfl : flagDZ.getLsbD 3 = true)

end FlagTable

end Sys2Proof.Machine
end

section
/-! Square roots, conversions between formats and from integers, and classification (40_numerics.md R92, R97 to R99). -/

namespace Sys2Proof.Machine

section Representable

variable {f : Format} {w : ℕ} {a : Magnitude}

/-! ### Magnitudes of the format -/

/-- A number of at most `p` significant bits within the range is a magnitude of the format. -/
theorem exists_bodyValue_eq (hf : f.Fits w) {k : ℕ} {t : ℤ} (hk : k < 2 ^ f.precision) (ht : f.qmin ≤ t)
    (hlt : (k : ℝ) * 2 ^ t < 2 ^ (f.emax + 1)) : ∃ n, n < f.infBody ∧ bodyValue f n = k * 2 ^ t := by
  rcases Nat.eq_zero_or_pos k with rfl | hkpos
  · exact ⟨0, infBody_pos hf, by simp⟩
  have hpos : (Magnitude.ratio k 1 t).positive = true := by simp [Magnitude.positive, hkpos]
  have hval : (Magnitude.ratio k 1 t).val = k * 2 ^ t := by simp [Magnitude.val]
  -- the grid of the result is not coarser than `2^t`
  have hlog : (Magnitude.ratio k 1 t).ilog2 < t + f.precision := by
    rw [Magnitude.ilog2_lt_iff hpos, hval, ← two_zpow_add_nat]
    exact mul_lt_mul_of_pos_right (by exact_mod_cast hk) (two_zpow_pos t)
  have hgrid : resultGrid f (.ratio k 1 t) ≤ t := by
    have hprec : (f.precision : ℤ) = f.fracBits + 1 := by rw [Format.precision]; push_cast; rfl
    unfold resultGrid unboundedGrid
    split_ifs <;> omega
  obtain ⟨e, he⟩ := Int.le.dest hgrid
  have honGrid : (Magnitude.ratio k 1 t).onGrid (resultGrid f (.ratio k 1 t)) = (k * 2 ^ e, .exact) := by
    refine (IsPosition.unique (gridPoint_strictMono _) (pos := (k * 2 ^ e, .exact)) ?_
      (Magnitude.onGrid_isPosition hpos _))
    change (Magnitude.ratio k 1 t).val = ((k * 2 ^ e : ℕ) : ℝ) * 2 ^ resultGrid f (.ratio k 1 t)
    rw [hval, Nat.cast_mul, mul_assoc, two_zpow_add_nat, he]
  have hplace := Magnitude.place_isPosition hpos f
  have hexact : ((Magnitude.ratio k 1 t).place f).2 = .exact := by rw [Magnitude.place, honGrid]
  have heq := (hplace.exact_iff (bodyValue_strictMono f)).mp hexact
  refine ⟨((Magnitude.ratio k 1 t).place f).1, ?_, by rw [← heq, hval]⟩
  rw [← (bodyValue_strictMono f).lt_iff_lt, ← heq, hval, bodyValue_infBody hf]
  exact hlt

theorem significand_lt {w : ℕ} (f : Format) (b : BitVec w) : significand f b < 2 ^ f.precision := by
  have hlt := fracField_lt f b
  rw [significand, Format.precision, Nat.pow_succ]
  split_ifs <;> omega

theorem qmin_le_unitExp {w : ℕ} (f : Format) (b : BitVec w) : f.qmin ≤ unitExp f b := by
  unfold unitExp
  split_ifs <;> omega

/-- Within the normal range no flag but NX is raised, and NX exactly when the result is not the magnitude. -/
theorem rounded_in_range (h : a.positive = true) (m : RoundingMode) (sg : Bool) (tin : Tininess)
    (hlo : 2 ^ f.emin ≤ a.val) {n : ℕ} (hn : n < f.infBody) (hhi : a.val ≤ bodyValue f n) :
    2 ^ f.fracBits ≤ roundedBody f m sg a ∧ roundedBody f m sg a < f.infBody ∧
      (roundedFlags f tin m sg a = noFlags ∨ roundedFlags f tin m sg a = flagNX) ∧
      (roundedFlags f tin m sg a = noFlags ↔ bodyValue f (roundedBody f m sg a) = a.val) := by
  have hg := bodyValue_strictMono f
  have hpos := Magnitude.place_isPosition h f
  have hlt : pick m sg (a.place f) < f.infBody := (hpos.pick_le hg hhi).trans_lt hn
  have htiny : tinyReal f tin m sg a = false :=
    Bool.eq_false_iff.mpr fun ht => absurd (val_lt_of_tinyReal h ht) (not_lt.mpr hlo)
  have hflags : roundedFlags f tin m sg a = flagIf ((a.place f).2 != .exact) flagNX := by
    rw [roundedFlags, if_neg (not_le.mpr hlt), htiny, Bool.false_and]
    exact BitVec.or_zero
  have hor (c : Bool) : flagIf c flagNX = noFlags ∨ flagIf c flagNX = flagNX := by cases c <;> decide
  have hbit (c : Bool) : flagIf c flagNX = noFlags ↔ (flagIf c flagNX).getLsbD 0 = false := by cases c <;> decide
  rw [roundedBody_of_lt hlt] at *
  refine ⟨hpos.le_pick hg (by rwa [bodyValue_step]), hlt, hflags ▸ hor _, ?_⟩
  rw [hflags, hbit, ← hflags, roundedFlags_nx_false_iff h, roundedBody_of_lt hlt, and_iff_right hlt]

/-! ### From binary32 to binary64 and back (40_numerics.md R98) -/

/-- The magnitude of a finite binary32 pattern is one of binary64. -/
theorem exists_body64 {a : Word} (ha : isFinite binary32 a = true) :
    ∃ n, n < binary64.infBody ∧ bodyValue binary64 n = bodyValue binary32 (bodyOf binary32 a) := by
  have hlt := (bodyValue_strictMono binary32) ((isFinite_iff binary32 a).mp ha)
  rw [bodyValue_infBody binary32_fits, bodyValue_bodyOf] at hlt
  have hsig : significand binary32 a < 2 ^ binary64.precision :=
    (significand_lt binary32 a).trans (Nat.pow_lt_pow_right (by omega) (by decide))
  have hexp : binary64.qmin ≤ unitExp binary32 a :=
    (show binary64.qmin ≤ binary32.qmin by decide).trans (qmin_le_unitExp binary32 a)
  rw [bodyValue_bodyOf]
  exact exists_bodyValue_eq binary64_fits hsig hexp (hlt.trans (two_zpow_lt_iff.mpr (by decide)))

/-- Converting a pattern that is known by its value, its sign and its class. -/
theorem convertF_finite {v w : ℕ} {f g : Format} {e : NumEnv v} {m : RoundingMode} {a : BitVec w}
    (ha : isFinite f a = true) (hz : isZero f a = false) :
    convertF f g e m a = roundNum g e.tininess m (valueOf f a) := by
  simp [convertF, isNaN_of_isFinite ha, isInf_of_isFinite ha, hz]

theorem convertF_isZero {v w : ℕ} {f g : Format} {e : NumEnv v} {m : RoundingMode} {a : BitVec w} (hf : f.Fits w)
    (hz : isZero f a = true) : convertF f g e m a = (zeroOf g (signBit f a), noFlags) := by
  simp [convertF, isNaN_of_isZero hz, isInf_of_isZero hf hz, hz]

theorem convertF_isInf {v w : ℕ} {f g : Format} {e : NumEnv v} {m : RoundingMode} {a : BitVec w}
    (ha : isInf f a = true) : convertF f g e m a = (infOf g (signBit f a), noFlags) := by
  simp [convertF, isNaN_of_isInf ha, ha]

theorem isInf_infOf (hf : f.Fits w) (sg : Bool) : isInf f (infOf f sg : BitVec w) = true :=
  (isInf_packBits_iff hf sg f.infBody_lt).mpr rfl

theorem signBit_infOf (hf : f.Fits w) (sg : Bool) : signBit f (infOf f sg : BitVec w) = sg :=
  hf.signBit_packBits sg f.infBody_lt

/-- A finite nonzero binary32 pattern converts to the binary64 pattern of its value. -/
theorem convertF_32_64 {d : NumEnv 64} {m : RoundingMode} {a : Word} (ha : isFinite binary32 a = true)
    (hz : isZero binary32 a = false) :
    ∃ b : DWord, convertF binary32 binary64 d m a = (b, noFlags) ∧ isFinite binary64 b = true ∧
      isZero binary64 b = false ∧ (valueOf binary64 b).val = (valueOf binary32 a).val := by
  obtain ⟨n, hn, hval⟩ := exists_body64 ha
  have hlt := hn.trans binary64.infBody_lt
  obtain ⟨hnum, hmag, hsign⟩ := valueOf_magnitude hz
  refine ⟨packBits binary64 (signBit binary32 a) n, ?_, (isFinite_packBits_iff binary64_fits _ hlt).mpr hn, ?_, ?_⟩
  · rw [convertF_finite ha hz, roundNum_eq, hsign,
      roundMagnitude_of_val_eq binary64_fits (BinNum.magnitude_positive hnum) (hmag.trans hval.symm) hn]
  · have hpos := bodyValue_pos hz
    rw [← Bool.not_eq_true, isZero_iff, binary64_fits.bodyOf_packBits _ hlt]
    rintro rfl
    rw [bodyValue_zero] at hval
    exact hpos.ne hval
  · rw [val_packBits binary64_fits _ hlt, hval, val_valueOf]

/-- Settles O57: infinities and zeros by their class, the others by their value, which binary64 has. -/
theorem singleToDoubleIsExact : Obligations.SingleToDoubleIsExact := by
  rintro e d m n a ha p rfl
  rcases isFinite_or_isInf ha with hfa | hia
  · rcases hz : isZero binary32 a with _ | _
    · obtain ⟨b, hb, hfb, hzb, hval⟩ := convertF_32_64 (d := d) (m := m) hfa hz
      rw [hb]
      exact ⟨rfl, (convertF_finite hfb hzb).trans (roundNum_of_val_eq binary32_fits hfa hz hval),
        fun _ => ⟨hfb, (BinNum.sameValue_iff _ _).mpr hval⟩⟩
    · have hzero : isZero binary64 (zeroOf binary64 (signBit binary32 a) : DWord) = true := binary64_fits.isZero_zeroOf
      rw [convertF_isZero binary32_fits hz]
      refine ⟨rfl, ?_, fun _ => ⟨isFinite_of_isZero binary64_fits hzero, ?_⟩⟩
      · rw [convertF_isZero binary64_fits hzero, binary64_fits.signBit_zeroOf, ← eq_zeroOf binary32_fits hz]
      · rw [BinNum.sameValue_iff, val_valueOf_eq_keyValue, val_valueOf_eq_keyValue, orderKey_of_isZero hzero,
          orderKey_of_isZero hz]
        simp [keyValue]
  · have hinf := isInf_infOf binary64_fits (signBit binary32 a)
    rw [convertF_isInf hia]
    refine ⟨rfl, ?_, fun hfa => absurd (isInf_of_isFinite hfa) (by rw [hia]; decide)⟩
    rw [convertF_isInf hinf, signBit_infOf binary64_fits, ← eq_infOf binary32_fits hia]

/-! ### From integers (40_numerics.md R97) -/

theorem natAbs_intOfWord_le (signed : Bool) (v : Word) : (intOfWord signed v).natAbs < 2 ^ 32 := by
  have hlt := v.isLt
  cases signed
  · simpa [intOfWord] using hlt
  · have hlo := BitVec.le_toInt v
    have hhi := BitVec.toInt_lt (x := v)
    simp only [intOfWord, if_true]
    omega

/-- The exact number of an integer. -/
def intNum (n : ℤ) : BinNum := ⟨n, 0⟩

theorem val_intNum (n : ℤ) : (intNum n).val = n := by simp [intNum, BinNum.val]

theorem val_magnitude_intNum (n : ℤ) : (intNum n).magnitude.val = n.natAbs := by
  rw [BinNum.val_magnitude, val_intNum, Nat.cast_natAbs, Int.cast_abs]

/-- An integer of at most `p` significant bits is a magnitude of the format. -/
theorem exists_bodyValue_eq_natCast (hf : f.Fits w) {n k e : ℕ} (hn : n = k * 2 ^ e) (hk : k < 2 ^ f.precision)
    (hlt : (n : ℝ) < 2 ^ (f.emax + 1)) : ∃ b, b < f.infBody ∧ bodyValue f b = n := by
  have hmin := Format.emin_le_zero hf
  have hval : (k : ℝ) * 2 ^ (e : ℤ) = n := by
    rw [hn, zpow_natCast]
    push_cast
    rfl
  rw [← hval] at hlt ⊢
  exact exists_bodyValue_eq hf hk (by rw [Format.qmin]; omega) hlt

/-- The converse: a magnitude of the format that is an integer has at most `p` significant bits. -/
theorem significant_bits_of_bodyValue (hf : f.Fits w) {n b : ℕ} (hb : b < f.infBody) (h : bodyValue f b = n) :
    ∃ k e : ℕ, k < 2 ^ f.precision ∧ n = k * 2 ^ e := by
  have hbody := bodyValue_bodyOf f (packBits f false b : BitVec w)
  rw [hf.bodyOf_packBits _ (hb.trans f.infBody_lt), h] at hbody
  have hsig := significand_lt f (packBits f false b : BitVec w)
  generalize significand f (packBits f false b : BitVec w) = s at hbody hsig
  rcases le_or_gt 0 (unitExp f (packBits f false b : BitVec w)) with hexp | hexp
  · obtain ⟨e, he⟩ := Int.eq_ofNat_of_zero_le hexp
    rw [he, zpow_natCast] at hbody
    exact ⟨s, e, hsig, by exact_mod_cast hbody⟩
  · refine ⟨n, 0, ?_, by simp⟩
    have hle : (n : ℝ) ≤ s := by
      rw [hbody]
      exact mul_le_of_le_one_right (Nat.cast_nonneg s) (zpow_le_one_of_nonpos₀ one_le_two hexp.le)
    exact lt_of_le_of_lt (by exact_mod_cast hle) hsig

theorem fromIntF_of_ne_zero {tin : Tininess} {m : RoundingMode} {signed : Bool} {v : Word}
    (h : intOfWord signed v ≠ 0) :
    (fromIntF f tin m signed v : BitVec w × FlagSet) = roundMagnitude f tin m (decide (intOfWord signed v < 0))
      (intNum (intOfWord signed v)).magnitude := by
  rw [fromIntF, if_neg h, roundNum_eq]
  rfl

theorem fromIntF_of_eq_zero {tin : Tininess} {m : RoundingMode} {signed : Bool} {v : Word}
    (h : intOfWord signed v = 0) : (fromIntF f tin m signed v : BitVec w × FlagSet) = (zeroOf f false, noFlags) := by
  rw [fromIntF, if_pos h]

/-- To binary64 every integer converts exactly. -/
theorem fromIntF_64 {tin : Tininess} {m : RoundingMode} {signed : Bool} {v : Word} (h : intOfWord signed v ≠ 0) :
    ∃ d : DWord, fromIntF binary64 tin m signed v = (d, noFlags) ∧ isFinite binary64 d = true ∧
      (valueOf binary64 d).val = intOfWord signed v := by
  have hn := natAbs_intOfWord_le signed v
  have hlt : ((intOfWord signed v).natAbs : ℝ) < 2 ^ (binary64.emax + 1) := by
    have hcast : ((intOfWord signed v).natAbs : ℝ) < (2 : ℝ) ^ (32 : ℤ) := by exact_mod_cast hn
    exact hcast.trans (two_zpow_lt_iff.mpr (by decide))
  obtain ⟨b, hb, hval⟩ := exists_bodyValue_eq_natCast (e := 0) binary64_fits (Nat.mul_one _).symm
    (hn.trans (show 2 ^ 32 < 2 ^ binary64.precision by decide)) hlt
  have hbw := hb.trans binary64.infBody_lt
  have hpos := BinNum.magnitude_positive (r := intNum (intOfWord signed v)) h
  refine ⟨_, (fromIntF_of_ne_zero h).trans (roundMagnitude_of_val_eq binary64_fits hpos
    ((val_magnitude_intNum _).trans hval.symm) hb tin m _), (isFinite_packBits_iff binary64_fits _ hbw).mpr hb, ?_⟩
  rw [val_packBits binary64_fits _ hbw, hval, ← val_magnitude_intNum]
  exact (BinNum.signed_magnitude _).trans (val_intNum _)

/-- To binary32 an integer is rounded within the normal range. -/
theorem fromIntF_32 {tin : Tininess} {m : RoundingMode} {signed : Bool} {v : Word} (h : intOfWord signed v ≠ 0)
    {p : Word × FlagSet} (hp : p = fromIntF binary32 tin m signed v) :
    isFinite binary32 p.1 = true ∧ (p.2 = noFlags ∨ p.2 = flagNX) ∧
      (p.2 = noFlags ↔ ∃ k e : ℕ, k < 2 ^ binary32.precision ∧ (intOfWord signed v).natAbs = k * 2 ^ e) := by
  have hn := natAbs_intOfWord_le signed v
  have hpos := BinNum.magnitude_positive (r := intNum (intOfWord signed v)) h
  have hval := val_magnitude_intNum (intOfWord signed v)
  have hmax : ((intOfWord signed v).natAbs : ℝ) < (2 : ℝ) ^ (32 : ℤ) := by exact_mod_cast hn
  have hlo : (2 : ℝ) ^ binary32.emin ≤ (intNum (intOfWord signed v)).magnitude.val := by
    rw [hval]
    have hone : (1 : ℝ) ≤ (intOfWord signed v).natAbs := by exact_mod_cast Int.natAbs_pos.mpr h
    exact (zpow_le_one_of_nonpos₀ one_le_two (by decide)).trans hone
  obtain ⟨top, htop, htopval⟩ := exists_bodyValue_eq binary32_fits (k := 1) (t := 32) (by decide) (by decide)
    (by rw [Nat.cast_one, one_mul]; exact two_zpow_lt_iff.mpr (by decide))
  rw [Nat.cast_one, one_mul] at htopval
  rw [hp, fromIntF_of_ne_zero h]
  generalize decide (intOfWord signed v < 0) = sg
  obtain ⟨-, hfin, hflags, hexact⟩ := rounded_in_range hpos m sg tin hlo htop
    (by rw [hval, htopval]; exact hmax.le)
  have hround := roundMagnitude_eq (w := 32) binary32_fits hpos tin m sg
  refine ⟨?_, ?_, fun hnone => ?_, fun ⟨k, e, hk, hke⟩ => ?_⟩
  · rw [hround, isFinite_packBits_iff binary32_fits _ (hfin.trans binary32.infBody_lt)]
    exact hfin
  · rw [hround]
    exact hflags
  · rw [hround] at hnone
    exact significant_bits_of_bodyValue binary32_fits hfin ((hexact.mp hnone).trans hval)
  · obtain ⟨b, hb, hbval⟩ := exists_bodyValue_eq_natCast binary32_fits hke hk
      (hmax.trans (two_zpow_lt_iff.mpr (by decide)))
    rw [roundMagnitude_of_val_eq binary32_fits hpos (hval.trans hbval.symm) hb]

/-- Settles O56: binary64 has every 32-bit integer, and binary32 those of at most 24 significant bits. -/
theorem integersConvertToFloating : Obligations.IntegersConvertToFloating := by
  intro tin m signed v
  by_cases h : intOfWord signed v = 0
  · rw [fromIntF_of_eq_zero h, fromIntF_of_eq_zero h, h]
    refine ⟨fun _ => ⟨rfl, rfl⟩, fun hne => absurd rfl hne, ?_, ?_⟩
    · rintro d rfl
      have hzero : isZero binary64 (zeroOf binary64 false : DWord) = true := binary64_fits.isZero_zeroOf
      refine ⟨rfl, isFinite_of_isZero binary64_fits hzero, (BinNum.sameValue_iff _ _).mpr ?_⟩
      rw [val_valueOf_eq_keyValue, orderKey_of_isZero hzero]
      simp [keyValue, BinNum.val]
    · rintro p rfl
      exact ⟨isFinite_of_isZero binary32_fits binary32_fits.isZero_zeroOf, .inl rfl,
        iff_of_true rfl ⟨0, 0, by decide, rfl⟩, fun _ => rfl⟩
  · obtain ⟨d64, hd64, hfin, hval⟩ := fromIntF_64 (tin := tin) (m := m) h
    refine ⟨fun h0 => absurd h0 h, fun _ => ⟨by rw [fromIntF, if_neg h], by rw [fromIntF, if_neg h]⟩, ?_, ?_⟩
    · rintro d rfl
      rw [hd64]
      exact ⟨rfl, hfin, (BinNum.sameValue_iff _ _).mpr (hval.trans (val_intNum _).symm)⟩
    · intro p hp
      obtain ⟨hfin, hflags, hiff⟩ := fromIntF_32 h hp
      refine ⟨hfin, hflags, hiff, fun hle => hiff.mpr ?_⟩
      rcases hle.lt_or_eq with hlt | heq
      · exact ⟨_, 0, hlt, (Nat.mul_one _).symm⟩
      · exact ⟨1, 24, by decide, heq.trans (Nat.one_mul _).symm⟩

end Representable

section Root

variable {f : Format} {w : ℕ} {env : NumEnv w} {m : RoundingMode} {a : BitVec w}

/-! ### Square roots (40_numerics.md R92) -/

/-- The magnitude whose root is taken: an even power of two times an integer, of the value of the operand. -/
theorem rootMagnitude_eq {num : ℕ} (hnum : 0 < num) (exp : ℤ) :
    ∃ (n : ℕ) (e : ℤ), rootMagnitude num exp = .root n e ∧ 0 < n ∧ (n : ℝ) * 2 ^ (2 * e) = num * 2 ^ exp := by
  unfold rootMagnitude
  split_ifs with heven
  · refine ⟨num, exp / 2, rfl, hnum, ?_⟩
    rw [Int.mul_ediv_cancel' (Int.dvd_of_emod_eq_zero heven)]
  · refine ⟨2 * num, (exp - 1) / 2, rfl, by omega, ?_⟩
    rw [show 2 * ((exp - 1) / 2) = exp - 1 by omega, zpow_sub_one₀ two_ne_zero]
    push_cast
    ring

theorem sqrtF_of_positive (ha : isFinite f a = true) (hz : isZero f a = false) (hs : signBit f a = false) :
    sqrtF f env m a =
      roundMagnitude f env.tininess m false (rootMagnitude (significand f a) (unitExp f a)) := by
  simp [sqrtF, isNaN_of_isFinite ha, isInf_of_isFinite ha, hz, hs]

/-- The magnitude that the square root of a positive finite pattern rounds. -/
theorem root_val (hz : isZero f a = false) :
    (rootMagnitude (significand f a) (unitExp f a)).positive = true ∧
      (rootMagnitude (significand f a) (unitExp f a)).val ^ 2 = bodyValue f (bodyOf f a) := by
  obtain ⟨n, e, heq, hn, hval⟩ := rootMagnitude_eq (significand_pos hz) (unitExp f a)
  rw [heq, bodyValue_bodyOf, ← hval]
  refine ⟨by simp [Magnitude.positive, hn], ?_⟩
  rw [Magnitude.val, mul_pow, Real.sq_sqrt (Nat.cast_nonneg n), two_mul, zpow_add₀ two_ne_zero, sq ((2 : ℝ) ^ e)]

/-- No root of a positive finite magnitude is subnormal or near the upper end. -/
theorem root_in_range (hf : f.Fits w) (ha : isFinite f a = true) (hz : isZero f a = false) :
    2 ^ f.emin ≤ (rootMagnitude (significand f a) (unitExp f a)).val ∧
      ∃ n, n < f.infBody ∧ (rootMagnitude (significand f a) (unitExp f a)).val ≤ bodyValue f n := by
  obtain ⟨hpos, hval⟩ := root_val hz
  have hnonneg := (Magnitude.val_pos hpos).le
  have hmax := Format.frac_lt_emax hf
  have hsq (e : ℤ) : ((2 : ℝ) ^ e) ^ 2 = 2 ^ (e + e) := by rw [sq, zpow_add₀ two_ne_zero]
  constructor
  · rw [← sq_le_sq₀ (two_zpow_pos _).le hnonneg, hval, hsq]
    have hone : bodyValue f 1 ≤ bodyValue f (bodyOf f a) := by
      rw [← Bool.not_eq_true, isZero_iff] at hz
      exact (bodyValue_strictMono f).monotone (Nat.pos_of_ne_zero hz)
    rw [bodyValue_of_le f (Nat.one_le_two_pow), Nat.cast_one, one_mul] at hone
    exact (two_zpow_le_iff.mpr (by rw [Format.qmin, Format.emin]; omega)).trans hone
  · obtain ⟨n, hn, hnval⟩ := exists_bodyValue_eq hf (k := 1) (t := f.emax)
      (Nat.one_lt_two_pow (by rw [Format.precision]; omega))
      (by rw [Format.qmin, Format.emin]; omega)
      (by rw [Nat.cast_one, one_mul]; exact two_zpow_lt_iff.mpr (by omega))
    refine ⟨n, hn, ?_⟩
    rw [hnval, Nat.cast_one, one_mul, ← sq_le_sq₀ hnonneg (two_zpow_pos _).le, hval, hsq]
    have hlt := (bodyValue_strictMono f) ((isFinite_iff f a).mp ha)
    rw [bodyValue_infBody hf] at hlt
    exact hlt.le.trans (two_zpow_le_iff.mpr (by omega))

/-- A nonnegative pattern stands to the root as its square stands to the operand. -/
theorem root_order (hz : isZero f a = false) (hs : signBit f a = false) {q : BitVec w} (hq : signBit f q = false) :
    (((valueOf f q).mul (valueOf f q)).le (valueOf f a) = true ↔
      (valueOf f q).val ≤ (rootMagnitude (significand f a) (unitExp f a)).val) ∧
    ((valueOf f a).le ((valueOf f q).mul (valueOf f q)) = true ↔
      (rootMagnitude (significand f a) (unitExp f a)).val ≤ (valueOf f q).val) := by
  obtain ⟨hpos, hsquare⟩ := root_val hz
  have hroot := (Magnitude.val_pos hpos).le
  have hva : (valueOf f a).val = bodyValue f (bodyOf f a) := by rw [val_valueOf, hs, signed_false]
  have hnonneg : 0 ≤ (valueOf f q).val := by
    rw [val_valueOf, hq]
    exact bodyValue_nonneg f _
  rw [BinNum.le_iff, BinNum.le_iff, BinNum.val_mul, hva, ← hsquare, ← sq, sq_le_sq₀ hnonneg hroot,
    sq_le_sq₀ hroot hnonneg]
  exact ⟨Iff.rfl, Iff.rfl⟩

/-- Settles O55: the root lies in the normal range, and squares order nonnegative reals as they are. -/
theorem squareRootIsTheRoundedRoot : Obligations.SquareRootIsTheRoundedRoot := by
  intro w f hstd env a ha hz hs
  have hf := hstd.fits
  obtain ⟨hpos, hsq⟩ := root_val hz
  obtain ⟨hlo, top, htop, hhi⟩ := root_in_range hf ha hz
  have hroot := Magnitude.val_pos hpos
  have hva : (valueOf f a).val = bodyValue f (bodyOf f a) := by rw [val_valueOf, hs, signed_false]
  simp only [sqrtF_of_positive ha hz hs]
  refine ⟨?_, ?_, ?_, ?_⟩
  · rintro m p rfl
    obtain ⟨hnormal, hfin, hflags, hexact⟩ := rounded_in_range hpos m false env.tininess hlo htop hhi
    have hlt := hfin.trans f.infBody_lt
    rw [roundMagnitude_eq hf hpos, isFinite_packBits_iff hf _ hlt, hf.signBit_packBits _ hlt, ne_eq,
      expField_eq_zero_iff, hf.bodyOf_packBits _ hlt, BinNum.sameValue_iff, BinNum.val_mul,
      val_packBits hf _ hlt, hva, signed_false]
    refine ⟨hfin, rfl, not_lt.mpr hnormal, hflags, ?_⟩
    rw [hexact, ← hsq, ← sq, sq_eq_sq₀ (bodyValue_nonneg f _) hroot.le]
  · rintro d u rfl rfl
    rw [roundMagnitude_eq hf hpos, roundMagnitude_eq hf hpos]
    have hd := rdn_isGreatestBelow hf hpos false
    have hu := rup_isLeastAbove hf hpos false
    obtain ⟨-, hdfin, -⟩ := rounded_in_range hpos .rdn false env.tininess hlo htop hhi
    obtain ⟨-, hufin, -⟩ := rounded_in_range hpos .rup false env.tininess hlo htop hhi
    have hdlt := hdfin.trans f.infBody_lt
    have hult := hufin.trans f.infBody_lt
    refine ⟨?_, ?_, fun q hq hsign => ⟨fun hle => hd.greatest q hq ?_, fun hle => hu.least q hq ?_⟩⟩
    · rw [(root_order hz hs (hf.signBit_packBits false hdlt)).1]
      exact hd.le ((isFinite_packBits_iff hf false hdlt).mpr hdfin)
    · rw [(root_order hz hs (hf.signBit_packBits false hult)).2]
      exact hu.le ((isFinite_packBits_iff hf false hult).mpr hufin)
    · exact (root_order hz hs hsign).1.mp hle
    · exact (root_order hz hs hsign).2.mp hle
  · rw [roundMagnitude_rtz hf hpos, if_neg (by decide)]
  · obtain ⟨n, e, heq, -, hval⟩ := rootMagnitude_eq (significand_pos hz) (unitExp f a)
    refine ⟨n, e, (BinNum.sameValue_iff _ _).mpr ?_, fun m => by rw [heq]⟩
    rw [hva, bodyValue_bodyOf, ← hval, BinNum.val, Int.cast_natCast]

end Root

end Sys2Proof.Machine
end

section
/-! Conversion to integers and classification (40_numerics.md R79, R96, R99). -/

namespace Sys2Proof.Machine

section ToInteger

variable {f : Format} {w : ℕ} {m : RoundingMode} {sg : Bool} {x : ℝ} {pos : ℕ × Rest}

/-! ### The integer a mode picks (40_numerics.md R79, R96) -/

theorem gridPoint_zero (k : ℕ) : gridPoint 0 k = k := by rw [gridPoint, zpow_zero, mul_one]

/-- Toward zero the integer is the floor of the magnitude. -/
theorem pick_integer_towardZero (h : IsPosition (gridPoint 0) x pos) (hm : towardZero m sg = true) :
    (pick m sg pos : ℝ) ≤ x ∧ x < pick m sg pos + 1 := by
  have hg := gridPoint_strictMono 0
  have hlo := h.le hg
  have hhi := h.lt hg
  rw [gridPoint_zero] at hlo hhi
  rw [pick_of_towardZero hm]
  exact ⟨hlo, by exact_mod_cast hhi⟩

/-- Away from zero the integer is the ceiling of the magnitude. -/
theorem pick_integer_awayFromZero (h : IsPosition (gridPoint 0) x pos) (hm : awayFromZero m sg = true) :
    x ≤ pick m sg pos ∧ (pick m sg pos : ℝ) < x + 1 := by
  have hg := gridPoint_strictMono 0
  refine ⟨by simpa [gridPoint_zero] using (h.pick_awayFromZero_le_iff hg hm).mp le_rfl, ?_⟩
  rcases h.eq_or_lt hg with ⟨hr, hx⟩ | ⟨hr, hlt, -⟩
  · rw [gridPoint_zero] at hx
    rw [pick_of_exact hr, hx]
    linarith
  · rw [gridPoint_zero] at hlt
    rw [pick_of_awayFromZero hm hr]
    push_cast
    linarith

/-- To nearest the integer is within one half, even or away from zero where it is one half away. -/
theorem pick_integer_nearest (h : IsPosition (gridPoint 0) x pos) (hm : m = .rne ∨ m = .rmm) :
    (pick m sg pos : ℝ) - 1 / 2 ≤ x ∧ x ≤ pick m sg pos + 1 / 2 ∧
      (x = pick m sg pos - 1 / 2 ∨ x = pick m sg pos + 1 / 2 → m = .rne → pick m sg pos % 2 = 0) ∧
      (x = pick m sg pos + 1 / 2 → m ≠ .rmm) := by
  have hg := gridPoint_strictMono 0
  have hlo := h.le hg
  have hhi := h.lt hg
  obtain ⟨hdown, hup⟩ := h.midpoint_of_pick_nearest (sg := sg) hg hm
  have htie := h.pick_of_midpoint (sg := sg) hg
  simp only [gridPoint_zero, Nat.cast_add, Nat.cast_one] at hlo hhi hdown hup htie
  rcases pick_cases m sg pos with hp | ⟨-, hp⟩
  · have hx := hdown hp
    refine ⟨by rw [hp]; linarith, by rw [hp]; linarith, fun ht hrne => ?_, fun ht hrmm => ?_⟩
    · subst hrne
      refine (htie ?_).1
      rw [hp] at ht
      rcases ht with ht | ht <;> linarith
    · subst hrmm
      rw [hp] at ht
      have haway := (htie (by linarith)).2
      omega
  · have hx := hup hp
    have hcast : (pick m sg pos : ℝ) = pos.1 + 1 := by rw [hp]; push_cast; rfl
    refine ⟨by linarith, by linarith, fun ht hrne => ?_, fun ht _ => by linarith⟩
    subst hrne
    refine (htie ?_).1
    rcases ht with ht | ht <;> linarith

/-- The integer of sign `sg` and magnitude `k`. -/
def signedInt (sg : Bool) (k : ℕ) : ℤ := if sg then -(k : ℤ) else k

theorem val_integer (n : ℤ) : (BinNum.mk n 0).val = n := val_intNum n

theorem val_half_integer (n : ℤ) : (BinNum.mk n (-1)).val = n / 2 := by
  rw [BinNum.val, zpow_neg_one, div_eq_mul_inv]

/-- What a mode picks among the integers is what R96 rounds to. -/
theorem roundsToInteger_pick (h : IsPosition (gridPoint 0) x pos) (hx : 0 < x) {v : BinNum}
    (hv : v.val = signed sg x) : roundsToInteger m v (signedInt sg (pick m sg pos)) := by
  have hneg : v.num < 0 ↔ sg = true := by
    rw [← v.val_neg_iff, hv]
    cases sg <;> simp [hx, hx.le]
  have hpos' : 0 < v.num ↔ sg = false := by
    rw [← v.val_pos_iff, hv]
    cases sg <;> simp [hx, hx.le]
  cases m with
  | rdn =>
    simp only [roundsToInteger, BinNum.le_iff, BinNum.lt_iff, val_integer, hv]
    cases sg with
    | false =>
      obtain ⟨hlo, hhi⟩ := pick_integer_towardZero (m := .rdn) (sg := false) h rfl
      exact ⟨by simpa [signedInt] using hlo, by simpa [signedInt] using hhi⟩
    | true =>
      obtain ⟨hlo, hhi⟩ := pick_integer_awayFromZero (m := .rdn) (sg := true) h rfl
      simp only [signedInt, signed_true, if_true]
      push_cast
      constructor <;> linarith
  | rup =>
    simp only [roundsToInteger, BinNum.le_iff, BinNum.lt_iff, val_integer, hv]
    cases sg with
    | false =>
      obtain ⟨hlo, hhi⟩ := pick_integer_awayFromZero (m := .rup) (sg := false) h rfl
      simp only [signedInt, signed_false, Bool.false_eq_true, if_false]
      push_cast
      constructor <;> linarith
    | true =>
      obtain ⟨hlo, hhi⟩ := pick_integer_towardZero (m := .rup) (sg := true) h rfl
      simp only [signedInt, signed_true, if_true]
      push_cast
      constructor <;> linarith
  | rtz =>
    obtain ⟨hlo, hhi⟩ := pick_integer_towardZero (m := .rtz) (sg := sg) h rfl
    simp only [roundsToInteger, BinNum.le_iff, BinNum.lt_iff, val_integer, hv, hneg]
    cases sg with
    | false =>
      simp only [signedInt, signed_false, Bool.false_eq_true, if_false]
      exact ⟨by exact_mod_cast hlo, by exact_mod_cast hhi⟩
    | true =>
      simp only [signedInt, signed_true, if_true]
      push_cast
      constructor <;> linarith
  | rne =>
    obtain ⟨hlo, hhi, heven, -⟩ := pick_integer_nearest (m := .rne) (sg := sg) h (.inl rfl)
    simp only [roundsToInteger, BinNum.le_iff, BinNum.sameValue_iff, val_half_integer, hv]
    cases sg with
    | false =>
      simp only [signedInt, signed_false, Bool.false_eq_true, if_false]
      push_cast
      refine ⟨by linarith, by linarith, fun ht => ?_⟩
      have := heven (ht.imp (fun h => by linarith) fun h => by linarith) rfl
      omega
    | true =>
      simp only [signedInt, signed_true, if_true]
      push_cast
      refine ⟨by linarith, by linarith, fun ht => ?_⟩
      have := heven (ht.symm.imp (fun h => by linarith) fun h => by linarith) rfl
      omega
  | rmm =>
    obtain ⟨hlo, hhi, -, haway⟩ := pick_integer_nearest (m := .rmm) (sg := sg) h (.inr rfl)
    simp only [roundsToInteger, BinNum.le_iff, BinNum.sameValue_iff, val_half_integer, hv, hneg, hpos']
    cases sg with
    | false =>
      simp only [signedInt, signed_false, Bool.false_eq_true, if_false]
      push_cast
      exact ⟨by linarith, by linarith, fun _ => trivial, fun ht => haway (by linarith) rfl⟩
    | true =>
      simp only [signedInt, signed_true, if_true]
      push_cast
      exact ⟨by linarith, by linarith, fun ht => (haway (by linarith) rfl).elim, fun _ => trivial⟩

end ToInteger

/-! ### Saturation and the word (40_numerics.md R96) -/

/-- An integer of the range is read back from its word. -/
theorem intOfWord_ofInt {signed : Bool} {n : ℤ} (hlo : intLo signed ≤ n) (hhi : n ≤ intHi signed) :
    intOfWord signed (BitVec.ofInt 32 n) = n := by
  cases signed with
  | false =>
    simp only [intLo, intHi, Bool.false_eq_true, if_false] at hlo hhi
    simp only [intOfWord, Bool.false_eq_true, if_false, BitVec.toNat_ofInt]
    omega
  | true =>
    simp only [intLo, intHi, if_true] at hlo hhi
    simp only [intOfWord, if_true]
    exact BitVec.toInt_ofInt_eq_self (by omega) (by omega) (by omega)

theorem intLo_le_zero (signed : Bool) : intLo signed ≤ 0 := by cases signed <;> decide

theorem zero_le_intHi (signed : Bool) : 0 ≤ intHi signed := by cases signed <;> decide

theorem intOfWord_intHi (signed : Bool) : intOfWord signed (BitVec.ofInt 32 (intHi signed)) = intHi signed :=
  intOfWord_ofInt ((intLo_le_zero signed).trans (zero_le_intHi signed)) le_rfl

theorem intOfWord_intLo (signed : Bool) : intOfWord signed (BitVec.ofInt 32 (intLo signed)) = intLo signed :=
  intOfWord_ofInt le_rfl ((intLo_le_zero signed).trans (zero_le_intHi signed))

/-- The word and the flag for the integer `n`: saturated with NV, or itself with NX when it is not exact. -/
def saturated (signed : Bool) (n : ℤ) (exact : Bool) : Word × FlagSet :=
  if intHi signed < n then (BitVec.ofInt 32 (intHi signed), flagNV)
  else if n < intLo signed then (BitVec.ofInt 32 (intLo signed), flagNV)
  else (BitVec.ofInt 32 n, flagIf (!exact) flagNX)

/-- The flag of a conversion to an integer in range is none or NX, none when it is exact. -/
theorem inexactFlag_cases (exact : Bool) :
    (flagIf (!exact) flagNX = noFlags ∨ flagIf (!exact) flagNX = flagNX) ∧
      (flagIf (!exact) flagNX = noFlags ↔ exact = true) := by
  cases exact <;> decide

theorem saturated_spec (signed : Bool) (n : ℤ) (exact : Bool) :
    (intLo signed ≤ n → n ≤ intHi signed → intOfWord signed (saturated signed n exact).1 = n ∧
      ((saturated signed n exact).2 = noFlags ∨ (saturated signed n exact).2 = flagNX) ∧
      ((saturated signed n exact).2 = noFlags ↔ exact = true)) ∧
    (intHi signed < n → intOfWord signed (saturated signed n exact).1 = intHi signed ∧
      (saturated signed n exact).2 = flagNV) ∧
    (n < intLo signed → intOfWord signed (saturated signed n exact).1 = intLo signed ∧
      (saturated signed n exact).2 = flagNV) := by
  refine ⟨fun hlo hhi => ?_, fun h => ?_, fun h => ?_⟩
  · rw [saturated, if_neg (by omega), if_neg (by omega)]
    exact ⟨intOfWord_ofInt hlo hhi, inexactFlag_cases exact⟩
  · rw [saturated, if_pos h]
    exact ⟨intOfWord_intHi signed, rfl⟩
  · have hle := (intLo_le_zero signed).trans (zero_le_intHi signed)
    rw [saturated, if_neg (by omega), if_pos h]
    exact ⟨intOfWord_intLo signed, rfl⟩

section ToIntF

variable {f : Format} {w : ℕ} {m : RoundingMode} {a : BitVec w}

/-- The magnitude of a finite nonzero operand, as `to_int` puts it on the integers. -/
theorem integerMagnitude (hz : isZero f a = false) :
    (Magnitude.ratio (significand f a) 1 (unitExp f a)).positive = true ∧
      (Magnitude.ratio (significand f a) 1 (unitExp f a)).val = bodyValue f (bodyOf f a) := by
  refine ⟨by simp [Magnitude.positive, significand_pos hz], ?_⟩
  rw [Magnitude.val, bodyValue_bodyOf, Nat.cast_one, div_one]

theorem toIntF_finite (ha : isFinite f a = true) (hz : isZero f a = false) (signed : Bool) :
    toIntF f m signed a = saturated signed
      (signedInt (signBit f a) (pick m (signBit f a) ((Magnitude.ratio (significand f a) 1 (unitExp f a)).onGrid 0)))
      (((Magnitude.ratio (significand f a) 1 (unitExp f a)).onGrid 0).2 == .exact) := by
  rw [toIntF, isNaN_of_isFinite ha, isInf_of_isFinite ha, hz]
  rfl

theorem toIntF_isZero (hf : f.Fits w) (hz : isZero f a = true) (signed : Bool) :
    toIntF f m signed a = saturated signed 0 true := by
  have hlo := intLo_le_zero signed
  have hhi := zero_le_intHi signed
  rw [saturated, if_neg (by omega), if_neg (by omega), toIntF, isNaN_of_isZero hz, isInf_of_isZero hf hz, hz]
  rfl

theorem signedInt_cast (sg : Bool) (k : ℕ) : ((signedInt sg k : ℤ) : ℝ) = signed sg k := by
  cases sg <;> simp [signedInt]

/-- Every finite operand saturates an integer that the mode rounds it to, exactly when that is its value. -/
theorem toIntF_eq_saturated (hf : f.Fits w) (ha : isFinite f a = true) (m : RoundingMode) (signed : Bool) :
    ∃ n exact, toIntF f m signed a = saturated signed n exact ∧ roundsToInteger m (valueOf f a) n ∧
      (exact = true ↔ BinNum.sameValue ⟨n, 0⟩ (valueOf f a)) := by
  rcases hz : isZero f a with _ | _
  · obtain ⟨hpos, hval⟩ := integerMagnitude hz
    have hg := gridPoint_strictMono 0
    have hgrid := Magnitude.onGrid_isPosition hpos 0
    have hv : (valueOf f a).val = Machine.signed (signBit f a)
        (Magnitude.ratio (significand f a) 1 (unitExp f a)).val := by rw [hval, val_valueOf]
    refine ⟨_, _, toIntF_finite ha hz signed, roundsToInteger_pick hgrid (Magnitude.val_pos hpos) hv, ?_⟩
    rw [beq_iff_eq, BinNum.sameValue_iff, val_integer, hv, signedInt_cast, signed_inj]
    constructor
    · intro hr
      rw [pick_of_exact hr, (hgrid.exact_iff hg).mp hr, gridPoint_zero]
    · intro hx
      have hplace := hgrid.unique hg (pos' := (pick m (signBit f a)
        ((Magnitude.ratio (significand f a) 1 (unitExp f a)).onGrid 0), .exact)) (by
          rw [← gridPoint_zero] at hx
          exact hx.symm)
      rw [← hplace]
  · have hval : (valueOf f a).val = 0 := (BinNum.val_eq_zero_iff _).mpr (valueOf_num_eq_zero_iff.mpr hz)
    refine ⟨0, true, toIntF_isZero hf hz signed, ?_, iff_of_true rfl ?_⟩
    · have hnum := valueOf_num_eq_zero_iff.mpr hz
      cases m <;> simp only [roundsToInteger, BinNum.le_iff, BinNum.lt_iff, BinNum.sameValue_iff, val_integer,
        val_half_integer, hval, hnum] <;> norm_num
    · rw [BinNum.sameValue_iff, val_integer, hval, Int.cast_zero]

/-- Settles O58: a finite operand by the integer picked, a NaN or an infinity by its branch. -/
theorem conversionToIntegerRounds : Obligations.ConversionToIntegerRounds := by
  rintro w f hstd m signed a p rfl
  have hf := hstd.fits
  constructor
  · intro ha
    obtain ⟨n, exact, heq, hround, hexact⟩ := toIntF_eq_saturated hf ha m signed
    refine ⟨n, hround, ?_⟩
    rw [heq, ← hexact]
    exact saturated_spec signed n exact
  · intro ha
    rcases hn : isNaN f a with _ | _
    · have hi : isInf f a = true := (isFinite_or_isInf hn).resolve_left (by rw [ha]; decide)
      rw [toIntF, hn, hi]
      cases signBit f a
      · exact ⟨rfl, intOfWord_intHi signed⟩
      · exact ⟨rfl, intOfWord_intLo signed⟩
    · rw [toIntF, hn]
      exact ⟨rfl, intOfWord_intHi signed⟩

end ToIntF

/-! ### Classification (40_numerics.md R99) -/

/-- The bit of the class mask, by the sign and the magnitude bits. -/
theorem classBit_eq {f : Format} {w : ℕ} (hf : f.Fits w) (a : BitVec w) :
    classBit f a =
      if bodyOf f a = 0 then (if signBit f a then 3 else 4)
      else if bodyOf f a < 2 ^ f.fracBits then (if signBit f a then 2 else 5)
      else if bodyOf f a < f.infBody then (if signBit f a then 1 else 6)
      else if bodyOf f a = f.infBody then (if signBit f a then 0 else 7)
      else if bodyOf f a < f.infBody + 2 ^ (f.fracBits - 1) then 8 else 9 := by
  have hstep := hf.step_lt_infBody
  have hpos : 0 < 2 ^ f.fracBits := Nat.two_pow_pos _
  have hquiet : 0 < 2 ^ (f.fracBits - 1) := Nat.two_pow_pos _
  simp only [classBit, isNaN_iff, isInf_iff, isZero_iff, isSubnormal_iff, isSignaling_iff hf]
  split_ifs <;> omega

/-- The bit of the class mask by ranges of the whole pattern: the positive ones, then the negative ones. -/
theorem classBit_eq_ranges {f : Format} {w : ℕ} (hf : f.Fits w) (a : BitVec w) :
    classBit f a =
      if a.toNat = 0 then 4 else if a.toNat ≤ 2 ^ f.fracBits - 1 then 5 else if a.toNat ≤ f.infBody - 1 then 6
      else if a.toNat = f.infBody then 7 else if a.toNat < f.infBody + 2 ^ (f.fracBits - 1) then 8
      else if a.toNat < f.signWeight then 9
      else if a.toNat = f.signWeight then 3 else if a.toNat ≤ f.signWeight + (2 ^ f.fracBits - 1) then 2
      else if a.toNat < f.signWeight + f.infBody then 1 else if a.toNat = f.signWeight + f.infBody then 0
      else if a.toNat < f.signWeight + (f.infBody + 2 ^ (f.fracBits - 1)) then 8 else 9 := by
  have hstep : 0 < 2 ^ f.fracBits := Nat.two_pow_pos _
  have hquiet : 2 ^ (f.fracBits - 1) ≤ 2 ^ f.fracBits := Nat.pow_le_pow_right (by decide) (Nat.sub_le _ _)
  have hinf := hf.step_lt_infBody
  have hadd := f.infBody_add
  have hlt := bodyOf_lt f a
  have hpat := hf.toNat_eq a
  rw [classBit_eq hf]
  rcases hs : signBit f a with _ | _
  · rw [hs, if_neg (by decide), Nat.zero_add] at hpat
    simp only [hpat, if_pos hlt, Nat.le_sub_one_iff_lt hstep, Nat.le_sub_one_iff_lt (hstep.trans hinf),
      Bool.false_eq_true, if_false]
  · rw [hs, if_pos rfl] at hpat
    have hzero : f.signWeight + bodyOf f a ≠ 0 := by omega
    have hsub : ¬f.signWeight + bodyOf f a ≤ 2 ^ f.fracBits - 1 := by omega
    have hnormal : ¬f.signWeight + bodyOf f a ≤ f.infBody - 1 := by omega
    have hne : f.signWeight + bodyOf f a ≠ f.infBody := by omega
    have hsig : ¬f.signWeight + bodyOf f a < f.infBody + 2 ^ (f.fracBits - 1) := by omega
    have hpos : ¬f.signWeight + bodyOf f a < f.signWeight := by omega
    simp only [hpat, hzero, hsub, hnormal, hne, hsig, hpos, Nat.add_eq_left, Nat.add_le_add_iff_left,
      Nat.add_lt_add_iff_left, Nat.add_left_cancel_iff, Nat.le_sub_one_iff_lt hstep, if_true, if_false]

/-- A mask with one bit set, as a word. -/
theorem classMask_setWidth {f : Format} {w : ℕ} (a : BitVec w) :
    (classMask f a).setWidth 32 = (1 : Word) <<< classBit f a := by
  have hlt : classBit f a < 10 := by
    unfold classBit
    split_ifs <;> decide
  rw [classMask]
  generalize classBit f a = c at hlt
  interval_cases c <;> rfl

/-- Settles O32: the ranges of the pattern are those of the magnitude bits, on either side of the sign bit. -/
theorem classifyFollowsTheTable : Obligations.ClassifyFollowsTheTable := by
  constructor <;> intro s rd rs1
  · obtain ⟨t, ht, hdone⟩ := writeXNext_done s rd ((classMask binary32 (s.readS rs1)).setWidth 32)
    rw [classMask_setWidth, classBit_eq_ranges binary32_fits] at hdone
    exact ⟨t, ht, hdone⟩
  · obtain ⟨t, ht, hdone⟩ := writeXNext_done s rd ((classMask binary64 (s.readF rs1)).setWidth 32)
    rw [classMask_setWidth, classBit_eq_ranges binary64_fits] at hdone
    exact ⟨t, ht, hdone⟩

end Sys2Proof.Machine
end

section
/-! Loads and stores as the specification states them, and the words it writes out (41_load_store.md R105 to R109;
47_base_subset.md R170, R174, R175, R179, R181, R188; 95_test_vectors.md). -/

namespace Sys2Proof

/-! ### Words the specification writes out -/

theorem decodeWord_of_encode_eq {i : Instr} {w : Word} (hwf : i.wf = true) (he : encode i = w) :
    decodeWord w = .instr i :=
  he ▸ decodeWord_encode hwf

/-- Settles O4: each word is the encoding of the well-formed instruction named, and decoding inverts encoding. -/
theorem knownWordsDecode : Obligations.KnownWordsDecode :=
  ⟨decodeWord_of_encode_eq rfl rfl, decodeWord_of_encode_eq rfl rfl, decodeWord_of_encode_eq rfl rfl,
    decodeWord_of_encode_eq rfl rfl, decodeWord_of_encode_eq rfl rfl, decodeWord_of_encode_eq rfl rfl,
    decodeWord_of_encode_eq rfl rfl, decodeWord_of_encode_eq rfl rfl, decodeWord_of_encode_eq rfl rfl,
    decodeWord_of_encode_eq rfl rfl, decodeWord_of_encode_eq rfl rfl, decodeWord_of_encode_eq rfl rfl,
    decodeWord_of_encode_eq rfl rfl⟩

end Sys2Proof

namespace Sys2Proof.Machine

/-! ### Allowed accesses (41_load_store.md R105 to R109; 47_base_subset.md R174, R175) -/

/-- Settles O25: each load writes the word or doubleword at EA, whose bytes are those of memory. -/
theorem loadsComplete : Obligations.LoadsComplete := by
  refine ⟨fun s rd rs1 imm h => ?flw, fun s rd rs1 imm h => ?fld, fun s rd rs1 imm h => ?lw⟩
  case flw =>
    obtain ⟨t, ht, done⟩ := exec_flw_done rfl h rd
    exact ⟨t, _, ht, fun _ hk => Memory.byteOfWord_readWord _ _ hk, done⟩
  case fld =>
    obtain ⟨t, ht, done⟩ := exec_fld_done rfl h rd
    exact ⟨t, _, ht, fun _ hk => Memory.extract_readDouble_byte _ _ hk, done⟩
  case lw =>
    obtain ⟨t, ht, done⟩ := exec_lw_done rfl h rd
    exact ⟨t, _, ht, fun _ hk => Memory.byteOfWord_readWord _ _ hk, done⟩

/-- Settles O26: each store completes with its source register's bits, `fsw` with the low half whatever the upper one
holds (41_load_store.md R108). -/
theorem storesComplete : Obligations.StoresComplete :=
  ⟨fun _ rs2 _ _ h => exec_fsw_done rfl h rs2, fun _ rs2 _ _ h => exec_fsd_done rfl h rs2,
    fun _ rs2 _ _ h => exec_sw_done rfl h rs2⟩

end Sys2Proof.Machine
end

section
/-! Arithmetic, minimum and maximum as the specification states them: the mode first where there is one, then the
primitive's value and flags (40_numerics.md R80, R88, R94; 42_arithmetic.md R110 to R123). -/

namespace Sys2Proof.Machine

/-! ### Instructions that round, under a valid mode (40_numerics.md R80) -/

section Rounded

variable {s : State} {rm : RmField} {m : RoundingMode}

/-- An instruction that rounds to a single completes with what it computes in the mode that its field gives. -/
theorem withRounding_finishS_done (h : s.roundsWith rm m) (i : Instr) (rd : FReg)
    (result : RoundingMode → Word × FlagSet) :
    ∃ t, withRounding i rm s (fun k => finishS s rd (result k)) = .next t ∧
      s.DoneS t rd (result m).1 (result m).2 := by
  rw [withRounding_of_rounds h]
  exact finishS_done s rd (result m)

/-- An instruction that rounds to a double completes with what it computes in the mode that its field gives. -/
theorem withRounding_finishD_done (h : s.roundsWith rm m) (i : Instr) (rd : FReg)
    (result : RoundingMode → DWord × FlagSet) :
    ∃ t, withRounding i rm s (fun k => finishD s rd (result k)) = .next t ∧
      s.DoneD t rd (result m).1 (result m).2 := by
  rw [withRounding_of_rounds h]
  exact finishD_done s rd (result m)

end Rounded

/-- Settles O28: each row is one primitive under its rounding mode, whose flags are accrued and never trap. -/
theorem arithmeticCompletes : Obligations.ArithmeticCompletes := by
  refine ⟨?faddS, ?fsubS, ?fmulS, ?fdivS, ?fsqrtS, ?faddD, ?fsubD, ?fmulD, ?fdivD, ?fsqrtD⟩
  case faddS | fsubS | fmulS | fdivS => exact fun _ rd _ _ _ _ h => withRounding_finishS_done h _ rd _
  case fsqrtS => exact fun _ rd _ _ _ h => withRounding_finishS_done h _ rd _
  case faddD | fsubD | fmulD | fdivD => exact fun _ rd _ _ _ _ h => withRounding_finishD_done h _ rd _
  case fsqrtD => exact fun _ rd _ _ _ h => withRounding_finishD_done h _ rd _

/-- Settles O30: no mode is read, so each row completes with its primitive in every state. -/
theorem minMaxCompletes : Obligations.MinMaxCompletes := by
  refine ⟨?fminS, ?fmaxS, ?fminD, ?fmaxD⟩
  case fminS | fmaxS => exact fun s rd _ _ => finishS_done s rd _
  case fminD | fmaxD => exact fun s rd _ _ => finishD_done s rd _

end Sys2Proof.Machine
end

section
/-! Fused multiply-add as the specification states it: the mode first, then the fused primitive, whose signs are the
row's and, for the two rows that negate the product, those of FNM_PAIRING (43_fused.md R124 to R131; 40_numerics.md
R93). -/

namespace Sys2Proof.Machine

/-! ### The sign of the addend (43_fused.md, introduction) -/

section Pairing

variable {s : State}

theorem fnmsubNegatesAddend_of_isa (h : s.launch.params.fnmPairing = .isa) : fnmsubNegatesAddend s = false := by
  rw [fnmsubNegatesAddend, h]
  rfl

theorem fnmsubNegatesAddend_of_literal (h : s.launch.params.fnmPairing = .literal) : fnmsubNegatesAddend s = true := by
  rw [fnmsubNegatesAddend, h]
  rfl

theorem fnmaddNegatesAddend_of_isa (h : s.launch.params.fnmPairing = .isa) : fnmaddNegatesAddend s = true := by
  rw [fnmaddNegatesAddend, h]
  rfl

theorem fnmaddNegatesAddend_of_literal (h : s.launch.params.fnmPairing = .literal) : fnmaddNegatesAddend s = false := by
  rw [fnmaddNegatesAddend, h]
  rfl

end Pairing

/-! ### The eight rows, under a valid mode -/

section Fused

variable {s : State} {rm : RmField} {m : RoundingMode} {np nc nc' : Bool}

/-- A fused instruction on singles completes with the fused value whose addend has the sign `nc`, once the sign its row
computes is known to be that. -/
theorem withRounding_fmaS_done (h : s.roundsWith rm m) (hsign : nc' = nc) (i : Instr) (rd rs1 rs2 rs3 : FReg) :
    ∃ t, withRounding i rm s (fun k => finishS s rd
        (fmaF binary32 s.envS k (s.readS rs1) (s.readS rs2) (s.readS rs3) np nc')) = .next t ∧
      s.DoneS t rd (fmaF binary32 s.envS m (s.readS rs1) (s.readS rs2) (s.readS rs3) np nc).1
        (fmaF binary32 s.envS m (s.readS rs1) (s.readS rs2) (s.readS rs3) np nc).2 := by
  subst hsign
  exact withRounding_finishS_done h i rd _

/-- A fused instruction on doubles completes with the fused value whose addend has the sign `nc`, once the sign its row
computes is known to be that. -/
theorem withRounding_fmaD_done (h : s.roundsWith rm m) (hsign : nc' = nc) (i : Instr) (rd rs1 rs2 rs3 : FReg) :
    ∃ t, withRounding i rm s (fun k => finishD s rd
        (fmaF binary64 s.envD k (s.readF rs1) (s.readF rs2) (s.readF rs3) np nc')) = .next t ∧
      s.DoneD t rd (fmaF binary64 s.envD m (s.readF rs1) (s.readF rs2) (s.readF rs3) np nc).1
        (fmaF binary64 s.envD m (s.readF rs1) (s.readF rs2) (s.readF rs3) np nc).2 := by
  subst hsign
  exact withRounding_finishD_done h i rd _

end Fused

/-- Settles O29: each row is the fused primitive under its rounding mode; the pairing decides the addend's sign in
`fnmsub` and `fnmadd` alone. -/
theorem fusedCompletes : Obligations.FusedCompletes := by
  refine ⟨?fmaddS, ?fmsubS, ?fnmsubS, ?fnmaddS, ?fmaddD, ?fmsubD, ?fnmsubD, ?fnmaddD⟩
  case fmaddS | fmsubS => exact fun _ rd _ _ _ _ _ h => withRounding_finishS_done h _ rd _
  case fmaddD | fmsubD => exact fun _ rd _ _ _ _ _ h => withRounding_finishD_done h _ rd _
  case fnmsubS =>
    exact fun _ rd rs1 rs2 rs3 _ _ h =>
      ⟨fun hp => withRounding_fmaS_done h (fnmsubNegatesAddend_of_isa hp) _ rd rs1 rs2 rs3,
        fun hp => withRounding_fmaS_done h (fnmsubNegatesAddend_of_literal hp) _ rd rs1 rs2 rs3⟩
  case fnmaddS =>
    exact fun _ rd rs1 rs2 rs3 _ _ h =>
      ⟨fun hp => withRounding_fmaS_done h (fnmaddNegatesAddend_of_isa hp) _ rd rs1 rs2 rs3,
        fun hp => withRounding_fmaS_done h (fnmaddNegatesAddend_of_literal hp) _ rd rs1 rs2 rs3⟩
  case fnmsubD =>
    exact fun _ rd rs1 rs2 rs3 _ _ h =>
      ⟨fun hp => withRounding_fmaD_done h (fnmsubNegatesAddend_of_isa hp) _ rd rs1 rs2 rs3,
        fun hp => withRounding_fmaD_done h (fnmsubNegatesAddend_of_literal hp) _ rd rs1 rs2 rs3⟩
  case fnmaddD =>
    exact fun _ rd rs1 rs2 rs3 _ _ h =>
      ⟨fun hp => withRounding_fmaD_done h (fnmaddNegatesAddend_of_isa hp) _ rd rs1 rs2 rs3,
        fun hp => withRounding_fmaD_done h (fnmaddNegatesAddend_of_literal hp) _ rd rs1 rs2 rs3⟩

end Sys2Proof.Machine
end

section
/-! Comparisons as the specification states them: the primitive's answer as 0 or 1 in an x register, its flags accrued
(44_compare.md R132 to R137; 40_numerics.md R95). -/

namespace Sys2Proof.Machine

/-- A comparison completes with its answer as a word, in every state: no mode is read and no flag traps. -/
theorem compareInto_done (s : State) (rd : XReg) (r : Bool × FlagSet) :
    ∃ t, compareInto s rd r = .next t ∧ s.DoneX t rd (if r.1 then 1 else 0) r.2 :=
  finishX_done s rd (wordOfBool r.1, r.2)

/-- Settles O31: each row is one order primitive, on the singles or the doubles its sources hold. -/
theorem comparisonsComplete : Obligations.ComparisonsComplete := by
  refine ⟨?feqS, ?fltS, ?fleS, ?feqD, ?fltD, ?fleD⟩
  case feqS => exact fun s rd rs1 rs2 => compareInto_done s rd (eqF binary32 (s.readS rs1) (s.readS rs2))
  case fltS => exact fun s rd rs1 rs2 => compareInto_done s rd (ltF binary32 (s.readS rs1) (s.readS rs2))
  case fleS => exact fun s rd rs1 rs2 => compareInto_done s rd (leF binary32 (s.readS rs1) (s.readS rs2))
  case feqD => exact fun s rd rs1 rs2 => compareInto_done s rd (eqF binary64 (s.readF rs1) (s.readF rs2))
  case fltD => exact fun s rd rs1 rs2 => compareInto_done s rd (ltF binary64 (s.readF rs1) (s.readF rs2))
  case fleD => exact fun s rd rs1 rs2 => compareInto_done s rd (leF binary64 (s.readF rs1) (s.readF rs2))

end Sys2Proof.Machine
end

section
/-! Conversions and moves as the specification states them: a conversion evaluates its mode and writes the primitive's
value, a move reads no mode and copies bits (45_convert_move.md R139 to R150; 40_numerics.md R80, R96 to R98). -/

namespace Sys2Proof.Machine

/-! ### Conversions, under a valid mode (40_numerics.md R80) -/

section Converted

variable {s : State} {rm : RmField} {m : RoundingMode}

/-- An instruction that rounds into an x register completes with what it computes in the mode that its field gives. -/
theorem withRounding_finishX_done (h : s.roundsWith rm m) (i : Instr) (rd : XReg)
    (result : RoundingMode → Word × FlagSet) :
    ∃ t, withRounding i rm s (fun k => finishX s rd (result k)) = .next t ∧
      s.DoneX t rd (result m).1 (result m).2 := by
  rw [withRounding_of_rounds h]
  exact finishX_done s rd (result m)

/-- An instruction that evaluates its mode and writes a double without accruing completes with that double and no
flag. -/
theorem withRounding_writeDNext_done (h : s.roundsWith rm m) (i : Instr) (rd : FReg) (value : RoundingMode → DWord) :
    ∃ t, withRounding i rm s (fun k => writeDNext s rd (value k)) = .next t ∧ s.DoneD t rd (value m) noFlags := by
  rw [withRounding_of_rounds h]
  exact writeDNext_done s rd (value m)

end Converted

/-- Settles O34: by the destination of each conversion and by whether it accrues (`fcvt.d.w` and `fcvt.d.wu` do not);
the two moves read no mode. -/
theorem conversionsAndMovesComplete : Obligations.ConversionsAndMovesComplete := by
  refine ⟨?fcvtWS, ?fcvtWuS, ?fcvtWD, ?fcvtWuD, ?fcvtSW, ?fcvtSWu, ?fcvtDW, ?fcvtDWu, ?fcvtSD, ?fcvtDS,
    ?fmvXW, ?fmvWX⟩
  case fcvtWS | fcvtWuS | fcvtWD | fcvtWuD => exact fun _ rd _ _ _ h => withRounding_finishX_done h _ rd _
  case fcvtSW | fcvtSWu | fcvtSD => exact fun _ rd _ _ _ h => withRounding_finishS_done h _ rd _
  case fcvtDW | fcvtDWu => exact fun _ rd _ _ _ h => withRounding_writeDNext_done h _ rd _
  case fcvtDS => exact fun _ rd _ _ _ h => withRounding_finishD_done h _ rd _
  case fmvXW => exact fun s rd rs1 => writeXNext_done s rd (lowHalf (s.readF rs1))
  case fmvWX => exact fun s rd rs1 => writeSNext_done s rd (s.readX rs1)

end Sys2Proof.Machine
end

section
/-! Sign injection bit by bit: the sign as the row computes it, every other bit that of `rs1`, no flag
(46_sign_classify.md R152 to R157). -/

namespace Sys2Proof.Machine

/-! ### The bits of a pattern whose sign is replaced -/

section Bits

variable {f : Format} {w k : ℕ}

theorem getLsbD_flipSign_of_lt (hk : k < f.expBits + f.fracBits) (a : BitVec w) :
    (flipSign f a).getLsbD k = a.getLsbD k := by
  rw [flipSign, BitVec.getLsbD_xor, BitVec.getLsbD_ofNat, Format.signWeight, Nat.testBit_two_pow_of_ne (Nat.ne_of_gt hk),
    Bool.and_false, Bool.xor_false]

theorem signBit_withSign (hf : f.Fits w) (sg : Bool) (a : BitVec w) : signBit f (withSign f sg a) = sg := by
  unfold withSign
  split
  next hsame => exact hsame
  next hdiff => rw [signBit_flipSign hf, Bool.not_eq.mpr hdiff]

theorem getLsbD_withSign_of_lt (hk : k < f.expBits + f.fracBits) (sg : Bool) (a : BitVec w) :
    (withSign f sg a).getLsbD k = a.getLsbD k := by
  unfold withSign
  split
  · rfl
  · exact getLsbD_flipSign_of_lt hk a

end Bits

/-! ### The rows, by the sign that each computes -/

/-- Writing a single with its sign replaced completes without a flag: bit 31 is the new sign, the others stay. -/
theorem writeSNext_withSign_done (s : State) (rd : FReg) (sg : Bool) (a : Word) :
    ∃ t, ∃ v : Word, writeSNext s rd (withSign binary32 sg a) = .next t ∧
      v.getLsbD 31 = sg ∧ (∀ k, k < 31 → v.getLsbD k = a.getLsbD k) ∧ s.DoneS t rd v noFlags := by
  obtain ⟨t, ht, hdone⟩ := writeSNext_done s rd (withSign binary32 sg a)
  exact ⟨t, _, ht, signBit_withSign binary32_fits sg a, fun _ hk => getLsbD_withSign_of_lt hk sg a, hdone⟩

/-- Writing a double with its sign replaced completes without a flag: bit 63 is the new sign, the others stay. -/
theorem writeDNext_withSign_done (s : State) (rd : FReg) (sg : Bool) (a : DWord) :
    ∃ t, ∃ v : DWord, writeDNext s rd (withSign binary64 sg a) = .next t ∧
      v.getLsbD 63 = sg ∧ (∀ k, k < 63 → v.getLsbD k = a.getLsbD k) ∧ s.DoneD t rd v noFlags := by
  obtain ⟨t, ht, hdone⟩ := writeDNext_done s rd (withSign binary64 sg a)
  exact ⟨t, _, ht, signBit_withSign binary64_fits sg a, fun _ hk => getLsbD_withSign_of_lt hk sg a, hdone⟩

/-- Settles O33: each row writes `rs1` with its sign replaced, and the rows of a format differ in that sign alone. -/
theorem signInjection : Obligations.SignInjection := by
  refine ⟨?fsgnjS, ?fsgnjnS, ?fsgnjxS, ?fsgnjD, ?fsgnjnD, ?fsgnjxD⟩ <;> intro s rd rs1 rs2
  case fsgnjS => exact writeSNext_withSign_done s rd (signBit binary32 (s.readS rs2)) _
  case fsgnjnS => exact writeSNext_withSign_done s rd (!signBit binary32 (s.readS rs2)) _
  case fsgnjxS =>
    exact writeSNext_withSign_done s rd (signBit binary32 (s.readS rs1) ^^ signBit binary32 (s.readS rs2)) _
  case fsgnjD => exact writeDNext_withSign_done s rd (signBit binary64 (s.readF rs2)) _
  case fsgnjnD => exact writeDNext_withSign_done s rd (!signBit binary64 (s.readF rs2)) _
  case fsgnjxD =>
    exact writeDNext_withSign_done s rd (signBit binary64 (s.readF rs1) ^^ signBit binary64 (s.readF rs2)) _

end Sys2Proof.Machine
end

section
/-! The free values: with no parameter set to draw, an instruction carries the index of the next free value along and
reads nothing at it (70_reset_and_hazards.md R217; 00_scope.md R6; log 18). -/

namespace Sys2Proof.Machine

/-! ### The index of the next free value -/

/-- The state with another index of the next free value. -/
def State.setDraws (s : State) (n : Nat) : State := { s with draws := n }

/-- The outcome with another index of the next free value, where it is a next state. -/
def withDraws (n : Nat) : Result → Result
  | .next t => .next (t.setDraws n)
  | r => r

theorem State.writeX_setDraws (s : State) (n : Nat) (rd : XReg) (v : Word) :
    (s.setDraws n).writeX rd v = (s.writeX rd v).setDraws n := by
  unfold State.writeX
  split <;> rfl

theorem State.writeCsr_setDraws (s : State) (n : Nat) (c : Csr) (v : Word) :
    (s.setDraws n).writeCsr c v = (s.writeCsr c v).setDraws n := by
  cases c <;> rfl

/-! ### What the primitives read of their environment -/

/-- No primitive tells the two environments apart: they differ at most in the zero that `minnum2008` returns, under
another setting of MINMAX (40_numerics.md R94). -/
structure NumEnv.Agrees {w : Nat} (e e' : NumEnv w) : Prop where
  tininess : e'.tininess = e.tininess
  nan : e'.nan = e.nan
  minMax : e'.minMax = e.minMax
  firstZero : e.minMax = .minnum2008 → e'.firstZero = e.firstZero

namespace NumEnv.Agrees

variable {w : Nat} {e e' : NumEnv w}

theorem nanResult (h : e.Agrees e') (signaling : Bool) : nanResult e' signaling = nanResult e signaling := by
  rw [Machine.nanResult, Machine.nanResult, h.nan]

theorem invalidResult (h : e.Agrees e') : invalidResult e' = invalidResult e := by
  rw [Machine.invalidResult, Machine.invalidResult, h.nan]

variable (f : Format) (m : RoundingMode) (a b c : BitVec w)

theorem addF (h : e.Agrees e') : addF f e' m a b = addF f e m a b := by
  simp only [Machine.addF, h.nanResult, h.invalidResult, h.tininess]

theorem subF (h : e.Agrees e') : subF f e' m a b = subF f e m a b := by
  simp only [Machine.subF, h.nanResult, h.addF]

theorem mulF (h : e.Agrees e') : mulF f e' m a b = mulF f e m a b := by
  simp only [Machine.mulF, h.nanResult, h.invalidResult, h.tininess]

theorem divF (h : e.Agrees e') : divF f e' m a b = divF f e m a b := by
  simp only [Machine.divF, h.nanResult, h.invalidResult, h.tininess]

theorem sqrtF (h : e.Agrees e') : sqrtF f e' m a = sqrtF f e m a := by
  simp only [Machine.sqrtF, h.nanResult, h.invalidResult, h.tininess]

theorem fmaF (h : e.Agrees e') (np nc : Bool) : fmaF f e' m a b c np nc = fmaF f e m a b c np nc := by
  simp only [Machine.fmaF, h.nanResult, h.invalidResult, h.tininess]

theorem convertF {v : Nat} (src dst : Format) (h : e.Agrees e') (m : RoundingMode) (a : BitVec v) :
    convertF src dst e' m a = convertF src dst e m a := by
  simp only [Machine.convertF, h.nanResult, h.tininess]

theorem zeroChoice (h : e.Agrees e') (isMax : Bool) : zeroChoice f e' isMax a b = zeroChoice f e isMax a b := by
  unfold Machine.zeroChoice
  rw [h.minMax]
  split
  next => rfl
  next hmode => rw [h.firstZero hmode]

theorem minMaxF (h : e.Agrees e') (isMax : Bool) : minMaxF f e' isMax a b = minMaxF f e isMax a b := by
  simp only [Machine.minMaxF, h.nan, h.invalidResult, h.minMax, h.zeroChoice]

end NumEnv.Agrees

/-! ### A state whose parameters draw nothing (00_scope.md R6) -/

theorem Params.draws_eq_false_iff (p : Params) :
    Params.draws p = false ↔ p.nanResult = .canonical ∧ p.boxWrite = .ones ∧ p.minMax = .number := by
  obtain ⟨mis, nan, bw, bc, mm, tin, fnm⟩ := p
  cases nan <;> cases bw <;> cases mm <;> simp [Params.draws]

section NoDraw

variable {s : State} {n : Nat}

/-- Where nothing is drawn, the count of draws stays where it is. -/
theorem next_countDraw_setDraws (h : Params.draws s.launch.params = false) :
    .next (s.setDraws n).countDraw.advance = withDraws n (.next s.countDraw.advance) := by
  have hcount (t : State) (ht : Params.draws t.launch.params = false) : t.countDraw = t := by simp [State.countDraw, ht]
  rw [hcount s h, hcount (s.setDraws n) h]
  rfl

theorem State.upperHalf_setDraws (h : Params.draws s.launch.params = false) :
    (s.setDraws n).upperHalf = s.upperHalf := by
  obtain ⟨-, hones, -⟩ := (Params.draws_eq_false_iff _).mp h
  rw [State.upperHalf_of_ones hones, State.upperHalf_of_ones (s := s.setDraws n) hones]

theorem State.writeS_setDraws (h : Params.draws s.launch.params = false) (rd : FReg) (v : Word) :
    (s.setDraws n).writeS rd v = (s.writeS rd v).setDraws n := by
  rw [State.writeS, State.upperHalf_setDraws h]
  rfl

theorem State.envS_setDraws (h : Params.draws s.launch.params = false) : s.envS.Agrees (s.setDraws n).envS := by
  obtain ⟨hnan, -, hnumber⟩ := (Params.draws_eq_false_iff _).mp h
  refine ⟨rfl, ?_, rfl, fun hmode => ?_⟩
  · show (s.setDraws n).nan32 = s.nan32
    simp only [State.nan32, State.setDraws, hnan]
  · exact absurd (hmode.symm.trans hnumber) (by decide)

theorem State.envD_setDraws (h : Params.draws s.launch.params = false) : s.envD.Agrees (s.setDraws n).envD := by
  obtain ⟨hnan, -, hnumber⟩ := (Params.draws_eq_false_iff _).mp h
  refine ⟨rfl, ?_, rfl, fun hmode => ?_⟩
  · show (s.setDraws n).nan64 = s.nan64
    simp only [State.nan64, State.setDraws, hnan]
  · exact absurd (hmode.symm.trans hnumber) (by decide)

end NoDraw

/-! ### The shared operations carry the index along -/

section Carry

variable {s : State} {n : Nat}

theorem finishX_setDraws (rd : XReg) (r : Word × FlagSet) :
    finishX (s.setDraws n) rd r = withDraws n (finishX s rd r) := by
  rw [finishX, s.writeX_setDraws]
  rfl

theorem writeXNext_setDraws (rd : XReg) (v : Word) :
    writeXNext (s.setDraws n) rd v = withDraws n (writeXNext s rd v) := by
  rw [writeXNext, s.writeX_setDraws]
  rfl

theorem csrNext_setDraws (rd : XReg) (c : Csr) (new : Option Word) :
    csrNext (s.setDraws n) rd c new = withDraws n (csrNext s rd c new) := by
  cases new with
  | none => exact writeXNext_setDraws rd (s.readCsr c)
  | some v =>
    rw [csrNext, s.writeCsr_setDraws, State.writeX_setDraws]
    rfl

/-- A result that is the same for both indices is written as a single. -/
theorem finishS_setDraws (h : Params.draws s.launch.params = false) (rd : FReg) {r r' : Word × FlagSet} (hr : r' = r) :
    finishS (s.setDraws n) rd r' = withDraws n (finishS s rd r) := by
  rw [hr, finishS, State.writeS_setDraws h]
  exact next_countDraw_setDraws (s := (s.writeS rd r.1).accrue r.2) h

/-- A result that is the same for both indices is written as a double. -/
theorem finishD_setDraws (h : Params.draws s.launch.params = false) (rd : FReg) {r r' : DWord × FlagSet} (hr : r' = r) :
    finishD (s.setDraws n) rd r' = withDraws n (finishD s rd r) := by
  rw [hr]
  exact next_countDraw_setDraws (s := (s.writeF rd r.1).accrue r.2) h

theorem writeSNext_setDraws (h : Params.draws s.launch.params = false) (rd : FReg) (v : Word) :
    writeSNext (s.setDraws n) rd v = withDraws n (writeSNext s rd v) := by
  rw [writeSNext, State.writeS_setDraws h]
  exact next_countDraw_setDraws (s := s.writeS rd v) h

theorem withRounding_setDraws (i : Instr) (rm : RmField) {k k' : RoundingMode → Result}
    (hk : ∀ m, k' m = withDraws n (k m)) :
    withRounding i rm (s.setDraws n) k' = withDraws n (withRounding i rm s k) := by
  rcases withRounding_cases i rm s k with ⟨m, hm, hs⟩ | ⟨hrefused, hs⟩
  · rw [hs, withRounding_of_rounds (s := s.setDraws n) hm, hk]
  · rw [hs, withRounding_of_refuses (s := s.setDraws n) hrefused]
    rfl

theorem withLoad_setDraws (ea : Word) (width : Nat) {k k' : Result} (hk : k' = withDraws n k) :
    withLoad (s.setDraws n) ea width k' = withDraws n (withLoad s ea width k) := by
  rcases s.access_cases ea width with ha | ha | ha
  · rw [withLoad_of_allowed ha, withLoad_of_allowed (s := s.setDraws n) ha, hk]
  · rw [withLoad_of_misaligned ha, withLoad_of_misaligned (s := s.setDraws n) ha]
    rfl
  · rw [withLoad_of_absent ha, withLoad_of_absent (s := s.setDraws n) ha]
    rfl

theorem withStore_setDraws (ea : Word) (width : Nat) {k k' : Result} (hk : k' = withDraws n k) :
    withStore (s.setDraws n) ea width k' = withDraws n (withStore s ea width k) := by
  rcases s.access_cases ea width with ha | ha | ha
  · rw [withStore_of_allowed ha, withStore_of_allowed (s := s.setDraws n) ha, hk]
  · rw [withStore_of_misaligned ha, withStore_of_misaligned (s := s.setDraws n) ha]
    rfl
  · rw [withStore_of_absent ha, withStore_of_absent (s := s.setDraws n) ha]
    rfl

theorem transfer_setDraws (target : Word) {pre pre' : State} (hpre : pre' = pre.setDraws n) :
    transfer (s.setDraws n) target pre' = withDraws n (transfer s target pre) := by
  by_cases ht : target.toNat % 4 = 0
  · rw [transfer_of_aligned ht, transfer_of_aligned ht, hpre]
    rfl
  · rw [transfer_of_misaligned ht, transfer_of_misaligned ht]
    rfl

theorem branchIf_setDraws (off : BitVec 13) (taken : Bool) :
    branchIf (s.setDraws n) off taken = withDraws n (branchIf s off taken) := by
  cases taken with
  | false => rfl
  | true => exact transfer_setDraws _ rfl

theorem withCsr_setDraws (number : BitVec 12) {k k' : Csr → Result} (hk : ∀ c, k' c = withDraws n (k c)) :
    withCsr number k' = withDraws n (withCsr number k) := by
  cases hc : csrOfNumber number with
  | some c => rw [withCsr_of_some hc, withCsr_of_some hc, hk]
  | none => rw [withCsr_of_none hc, withCsr_of_none hc]; rfl

end Carry

/-! ### Every row -/

/-- Every row of the table, by the shared operations its meaning is made of. -/
theorem exec_setDraws (i : Instr) {s : State} (n : Nat) (h : Params.draws s.launch.params = false) :
    exec i (s.setDraws n) = withDraws n (exec i s) := by
  have hS : s.envS.Agrees (s.setDraws n).envS := State.envS_setDraws h
  have hD : s.envD.Agrees (s.setDraws n).envD := State.envD_setDraws h
  cases i with
  | faddS => exact withRounding_setDraws _ _ fun _ => finishS_setDraws h _ (hS.addF ..)
  | fsubS => exact withRounding_setDraws _ _ fun _ => finishS_setDraws h _ (hS.subF ..)
  | fmulS => exact withRounding_setDraws _ _ fun _ => finishS_setDraws h _ (hS.mulF ..)
  | fdivS => exact withRounding_setDraws _ _ fun _ => finishS_setDraws h _ (hS.divF ..)
  | fsqrtS => exact withRounding_setDraws _ _ fun _ => finishS_setDraws h _ (hS.sqrtF ..)
  | fmaddS | fmsubS | fnmsubS | fnmaddS => exact withRounding_setDraws _ _ fun _ => finishS_setDraws h _ (hS.fmaF ..)
  | fcvtSD => exact withRounding_setDraws _ _ fun _ => finishS_setDraws h _ (hS.convertF ..)
  | fcvtSW | fcvtSWu => exact withRounding_setDraws _ _ fun _ => finishS_setDraws h _ rfl
  | faddD => exact withRounding_setDraws _ _ fun _ => finishD_setDraws h _ (hD.addF ..)
  | fsubD => exact withRounding_setDraws _ _ fun _ => finishD_setDraws h _ (hD.subF ..)
  | fmulD => exact withRounding_setDraws _ _ fun _ => finishD_setDraws h _ (hD.mulF ..)
  | fdivD => exact withRounding_setDraws _ _ fun _ => finishD_setDraws h _ (hD.divF ..)
  | fsqrtD => exact withRounding_setDraws _ _ fun _ => finishD_setDraws h _ (hD.sqrtF ..)
  | fmaddD | fmsubD | fnmsubD | fnmaddD => exact withRounding_setDraws _ _ fun _ => finishD_setDraws h _ (hD.fmaF ..)
  | fcvtDS => exact withRounding_setDraws _ _ fun _ => finishD_setDraws h _ (hD.convertF ..)
  | fcvtDW | fcvtDWu => exact withRounding_setDraws _ _ fun _ => rfl
  | fcvtWS | fcvtWuS | fcvtWD | fcvtWuD => exact withRounding_setDraws _ _ fun _ => finishX_setDraws _ _
  | fminS | fmaxS => exact finishS_setDraws h _ (hS.minMaxF ..)
  | fminD | fmaxD => exact finishD_setDraws h _ (hD.minMaxF ..)
  | feqS | fltS | fleS | feqD | fltD | fleD => exact finishX_setDraws _ _
  | fsgnjS | fsgnjnS | fsgnjxS | fmvWX => exact writeSNext_setDraws h _ _
  | fsgnjD | fsgnjnD | fsgnjxD => rfl
  | fclassS | fclassD | fmvXW | lui | addi | add | sub | slli => exact writeXNext_setDraws _ _
  | flw => exact withLoad_setDraws _ _ (writeSNext_setDraws h _ _)
  | fld => exact withLoad_setDraws _ _ rfl
  | lw => exact withLoad_setDraws _ _ (writeXNext_setDraws _ _)
  | fsw | fsd | sw => exact withStore_setDraws _ _ rfl
  | beq | bne | blt => exact branchIf_setDraws _ _
  | jal | jalr => exact transfer_setDraws _ (State.writeX_setDraws ..)
  | csrrw | csrrs | csrrc | csrrwi | csrrsi | csrrci => exact withCsr_setDraws _ fun _ => csrNext_setDraws _ _ _
  | ecall | ebreak => rfl

/-- Settles O20: every row carries the index along, so a next state is the same one at the other index. -/
theorem defaultsDrawNothing : Obligations.DefaultsDrawNothing := by
  intro i s t n h ht
  calc exec i (s.setDraws n) = withDraws n (exec i s) := exec_setDraws i n h
    _ = .next (t.setDraws n) := by rw [ht]; rfl

end Sys2Proof.Machine
end

section
/-! Integer computation, control transfer and the CSR instructions as the specification states them, and their traps
(47_base_subset.md R168 to R188; 60_exceptions.md R197). -/

namespace Sys2Proof.Machine

/-! ### Integer computation (47_base_subset.md R169 to R173) -/

/-- The immediate of `lui` above 12 zeros is the immediate shifted left by 12 (47_base_subset.md R169). -/
theorem append_twelve_zeros (imm : BitVec 20) : imm ++ (0 : BitVec 12) = (imm.setWidth 32 : Word) <<< 12 := by
  rw [BitVec.append_def]
  simp [BitVec.shiftLeftZeroExtend_eq]

/-- Settles O21: each row writes one x register and raises no flag. -/
theorem integerComputation : Obligations.IntegerComputation := by
  refine ⟨fun s rd imm => ?lui, fun s rd rs1 imm => ?addi, fun s rd rs1 rs2 => ?add, fun s rd rs1 rs2 => ?sub,
    fun s rd rs1 shamt => ?slli⟩
  case lui =>
    rw [← append_twelve_zeros]
    exact writeXNext_done s rd _
  case addi => exact writeXNext_done s rd (s.readX rs1 + sext12 imm)
  case add => exact writeXNext_done s rd (s.readX rs1 + s.readX rs2)
  case sub => exact writeXNext_done s rd (s.readX rs1 - s.readX rs2)
  case slli => exact writeXNext_done s rd (s.readX rs1 <<< shamt.toNat)

/-! ### A transfer to a misaligned target (47_base_subset.md R168; 60_exceptions.md R197) -/

/-- A transfer tests its target before it writes anything, so the state after it and the link are dropped. -/
theorem transfer_traps {s : State} {target : Word} (h : target.toNat % 4 ≠ 0) (pre : State) :
    ∃ t, transfer s target pre = .next t ∧ s.Traps t .instructionAddressMisaligned (some target) := by
  rw [transfer_of_misaligned h]
  exact raise_traps s _ _

/-! ### Branches (47_base_subset.md R168, R176 to R178) -/

section Branch

variable {s : State} {off : BitVec 13} {P : Prop} [Decidable P]

theorem branchIf_of_holds (h : P) : branchIf s off (decide P) = transfer s (s.branchTarget off) s := by
  rw [decide_eq_true h, branchIf_taken]

theorem branchIf_done_of_holds (h : P) (ha : (s.branchTarget off).toNat % 4 = 0) :
    ∃ t, branchIf s off (decide P) = .next t ∧ s.DoneJump t (s.branchTarget off) none := by
  rw [branchIf_of_holds h, transfer_of_aligned ha]
  exact ⟨_, rfl, s.doneJump_setPc _⟩

/-- A branch not taken goes on, whatever its target would be (47_base_subset.md R168). -/
theorem branchIf_done_of_fails (h : ¬ P) :
    ∃ t, branchIf s off (decide P) = .next t ∧ s.DoneJump t (s.pc + 4) none := by
  rw [decide_eq_false h, branchIf_not_taken]
  exact ⟨_, rfl, s.doneJump_setPc _⟩

theorem branchIf_traps_of_holds (h : P) (ha : (s.branchTarget off).toNat % 4 ≠ 0) :
    ∃ t, branchIf s off (decide P) = .next t ∧
      s.Traps t .instructionAddressMisaligned (some (s.branchTarget off)) := by
  rw [branchIf_of_holds h]
  exact transfer_traps ha s

end Branch

/-- Settles O22: each row is a branch on one decidable condition. -/
theorem branches : Obligations.Branches := by
  refine ⟨fun s rs1 rs2 off => ⟨fun h ha => ?beqTaken, fun h => ?beqOn⟩,
    fun s rs1 rs2 off => ⟨fun h ha => ?bneTaken, fun h => ?bneOn⟩,
    fun s rs1 rs2 off => ⟨fun h ha => ?bltTaken, fun h => ?bltOn⟩⟩
  case beqTaken | bneTaken | bltTaken => exact branchIf_done_of_holds h ha
  case beqOn => exact branchIf_done_of_fails h
  case bneOn => exact branchIf_done_of_fails (not_not_intro h)
  case bltOn => exact branchIf_done_of_fails (Int.not_lt.mpr h)

/-! ### Jumps (47_base_subset.md R179, R180) -/

/-- The link is written over the state before, so the base of `jalr` was read before it (47_base_subset.md R180). -/
theorem transfer_link_done (s : State) (rd : XReg) (v : Word) {target : Word} (h : target.toNat % 4 = 0) :
    ∃ t, transfer s target (s.writeX rd v) = .next t ∧ s.DoneJump t target (some (rd, v)) := by
  rw [transfer_of_aligned h]
  exact ⟨_, rfl, s.doneJump_link rd v target⟩

/-- Settles O23: both rows transfer with a link; the mask of `jalr` is the complement of 1. -/
theorem jumps : Obligations.Jumps :=
  ⟨fun s rd _ h => transfer_link_done s rd (s.pc + 4) h, fun s rd _ _ h => transfer_link_done s rd (s.pc + 4) h⟩

/-- Settles O24: a branch whose condition holds and a jump are each one transfer. -/
theorem misalignedTargetsTrap : Obligations.MisalignedTargetsTrap := by
  refine ⟨?beq, ?bne, ?blt, ?jal, ?jalr⟩
  case beq | bne | blt => exact fun _ _ _ _ h ha => branchIf_traps_of_holds h ha
  case jal => exact fun _ _ _ h => transfer_traps h _
  case jalr => exact fun _ _ _ _ h => transfer_traps h _

/-! ### CSR instructions (47_base_subset.md R181 to R186, R189) -/

section CsrRows

variable {s : State} {n : BitVec 12}

theorem withCsr_done {c : Csr} (h : csrOfNumber n = some c) (rd : XReg) (new : Csr → Option Word) :
    ∃ t, withCsr n (fun c => csrNext s rd c (new c)) = .next t ∧ s.DoneCsr t rd c (new c) := by
  rw [withCsr_of_some h]
  exact csrNext_done s rd c (new c)

/-- A CSR number that the spec does not describe is refused before anything is read (47_base_subset.md R189). -/
theorem exec_csr_refused (h : csrOfNumber n = none) {rd : XReg} {z : BitVec 5} {i : Instr}
    (hi : i ∈ [Instr.csrrw rd n z, .csrrs rd n z, .csrrc rd n z, .csrrwi rd n z, .csrrsi rd n z, .csrrci rd n z]) :
    exec i s = .refused (.csrNotDescribed n) := by
  simp only [List.mem_cons, List.not_mem_nil, or_false] at hi
  rcases hi with rfl | rfl | rfl | rfl | rfl | rfl <;> exact withCsr_of_none h _

end CsrRows

/-- Settles O35: each row names the new value as a function of the old one, and R30's numbers are all that is
described. -/
theorem csrInstructions : Obligations.CsrInstructions := by
  refine ⟨?csrrw, ?csrrs, ?csrrc, ?csrrwi, ?csrrsi, ?csrrci, fun s i rd n z h1 h2 h3 hi => ?refused⟩
  case csrrw | csrrs | csrrc | csrrwi | csrrsi | csrrci => exact fun s rd n _ c h => withCsr_done h rd _
  case refused => exact exec_csr_refused ((csrOfNumber_eq_none_iff n).mpr ⟨h1, h2, h3⟩) hi

end Sys2Proof.Machine
end

section
/-! `ecall` and `ebreak` are single words of the opcode table; the others of their opcode and funct3 match no row
(47_base_subset.md R187, R188). -/

namespace Sys2Proof

/-- A row's mask covers the opcode; under the opcode of `ecall` it covers a funct3 that is not theirs, or the whole
word, which is one of the two. -/
theorem environment_rows : ∀ r ∈ opcodeRows, r.mask.extractLsb' 0 7 = BitVec.allOnes 7 ∧
    (opcodeField r.pattern = 0b1110011 →
      (r.mask.extractLsb' 12 3 = BitVec.allOnes 3 ∧ funct3Field r.pattern ≠ 0b000) ∨
      (r.mask = BitVec.allOnes 32 ∧ (r.pattern = 0x00000073 ∨ r.pattern = 0x00100073))) := by
  decide +kernel

/-- A row that such a word matches fixes the whole word. -/
theorem eq_of_hits_environment {r : Row} (hr : r ∈ opcodeRows) {w : Word} (hop : opcodeField w = 0b1110011)
    (hf : funct3Field w = 0b000) (hw : r.hits w = true) : w = 0x00000073 ∨ w = 0x00100073 := by
  rw [Row.hits_iff] at hw
  obtain ⟨hmask, hrow⟩ := environment_rows r hr
  rcases hrow ((extract_of_hits hw hmask).trans hop) with ⟨hmask3, hf3⟩ | ⟨hall, hpattern⟩
  · exact absurd ((extract_of_hits hw hmask3).trans hf) hf3
  · rw [hall, BitVec.and_allOnes] at hw
    rwa [hw]

theorem decodeWord_other_environment {w : Word} (hop : opcodeField w = 0b1110011) (hf : funct3Field w = 0b000)
    (hcall : w ≠ 0x00000073) (hbreak : w ≠ 0x00100073) : decodeWord w = .notDescribed w := by
  have hrows : ∀ r ∈ opcodeRows, r.hits w = false := fun r hr =>
    Bool.eq_false_iff.mpr fun hw => (eq_of_hits_environment hr hop hf hw).elim hcall hbreak
  have hfp : opcodeField w ∉ fpOpcodes := by rw [hop]; decide
  rw [decodeWord_of_no_row hrows, if_neg hfp]

end Sys2Proof

namespace Sys2Proof.Machine

/-- Settles O36: the two words are encodings, their rows raise, and no row matches another word of their fields. -/
theorem environmentInstructions : Obligations.EnvironmentInstructions :=
  ⟨decodeWord_of_encode_eq (i := .ecall) rfl rfl, decodeWord_of_encode_eq (i := .ebreak) rfl rfl,
    fun s => raise_traps s .environmentCall none, fun s => raise_traps s .breakpoint (some s.pc),
    fun _ => decodeWord_other_environment⟩

end Sys2Proof.Machine
end

section
/-! The end of a run, and the accesses that end it (20_memory.md R41 to R49; 60_exceptions.md R193 to R204;
70_reset_and_hazards.md R216). -/

namespace Sys2Proof.Machine

/-! ### Ended runs (60_exceptions.md R204; 70_reset_and_hazards.md R216) -/

/-- Settles O10: the tests for a trapped run and for `halt_pc` come before the fetch. -/
theorem endedRunsStop : Obligations.EndedRunsStop := fun _ => ⟨step_of_trapped, step_of_halted⟩

/-- An instruction that does not trap leaves the trap record as it was. -/
theorem HasEffect.traps_or_goesOn {i : Instr} {s t : State} (h : HasEffect i s t) :
    (∃ c v, s.Traps t c v) ∨ s.goesOn t := by
  cases h with
  | trap h => exact .inl ⟨_, _, h⟩
  | doneX _ h => exact .inr h.on
  | doneS _ h => exact .inr h.on
  | doneD _ h => exact .inr h.on
  | store _ h => exact .inr h.on
  | jump h => exact .inr h.on
  | link _ h => exact .inr h.on
  | csr _ _ h => exact .inr h.on

/-- Settles O14: a step starts untrapped, so a trap record after it is the one it made. -/
theorem trapKeepsTheStateBefore : Obligations.TrapKeepsTheStateBefore := by
  intro s t hstep htrap
  obtain ⟨⟨huntrapped, -⟩, hcases⟩ := step_next_cases hstep
  refine ⟨huntrapped, ?_, step_of_trapped htrap⟩
  rcases hcases with htraps | ⟨i, hexec⟩
  · exact htraps
  · exact (exec_hasEffect hexec).traps_or_goesOn.resolve_right fun on => htrap (on.2.trans huntrapped)

/-! ### Refused accesses (60_exceptions.md R193 to R196, R202) -/

theorem withLoad_traps (s : State) (ea : Word) (n : Nat) (k : Result) :
    (s.accessMisaligned ea n → ∃ t, withLoad s ea n k = .next t ∧ s.Traps t .loadAddressMisaligned (some ea)) ∧
    (s.accessAbsent ea n → ∃ t, withLoad s ea n k = .next t ∧ s.Traps t .loadAccessFault (some ea)) :=
  ⟨fun h => withLoad_of_misaligned h k ▸ raise_traps s _ _, fun h => withLoad_of_absent h k ▸ raise_traps s _ _⟩

theorem withStore_traps (s : State) (ea : Word) (n : Nat) (k : Result) :
    (s.accessMisaligned ea n → ∃ t, withStore s ea n k = .next t ∧ s.Traps t .storeAddressMisaligned (some ea)) ∧
    (s.accessAbsent ea n → ∃ t, withStore s ea n k = .next t ∧ s.Traps t .storeAccessFault (some ea)) :=
  ⟨fun h => withStore_of_misaligned h k ▸ raise_traps s _ _, fun h => withStore_of_absent h k ▸ raise_traps s _ _⟩

/-- Program text is not data (20_memory.md R43, R49). -/
theorem Launch.inData_of_textByte? {l : Launch} {a : Nat} {b : Byte} (h : textByte? l.text a = some b) :
    l.inData a = false :=
  Bool.eq_false_iff.mpr fun hdata => by cases h.symm.trans (Launch.textByte?_of_inData hdata)

/-- Settles O27: each row tests its access before it reads a byte or writes anything. -/
theorem refusedAccessesTrap : Obligations.RefusedAccessesTrap := by
  refine ⟨?flw, ?fld, ?lw, ?fsw, ?fsd, ?sw, fun _ _ _ => Launch.inData_of_textByte?⟩
  case flw | fld | lw => exact fun s _ rs1 imm => withLoad_traps s (s.effectiveAddress rs1 imm) _ _
  case fsw | fsd | sw => exact fun s _ rs1 imm => withStore_traps s (s.effectiveAddress rs1 imm) _ _

end Sys2Proof.Machine
end
